-- ==== Sys2Proof/Word.lean ====
section
/-!
DEFINITION. The words of the KF-64 and the table of numbered things.

A burst is 32 bytes (R161), held as one 256-bit word whose byte 0, the byte at the lowest address, is the least
significant: the little-endian convention of 00_scope, so a multi-byte field of a layout is a run of bits.
-/

namespace Sys2Proof

/-- One byte of memory. -/
abbrev Byte := BitVec 8

/-- The 32 bytes of a burst, byte 0 least significant (R161, Byte order of 00_scope). -/
abbrev Burst := BitVec 256

/-- The 32 byte enables of a burst write, bit i for byte i (00_scope, Terms used: Burst). -/
abbrev Enables := BitVec 32

/-- A frame number: a 32-bit count (00_scope, Samples and frames). -/
abbrev FrameNo := BitVec 32

/-- All 32 byte enables set: the enables of a full write (R163). -/
def Enables.full : Enables := BitVec.allOnes 32

/-- A table of like numbered things (sources, lines, slots ...). It lists the things that may differ from a thing's
reset value; a number not listed stands for a thing at that value (log entry 2). -/
structure Table (α : Type) where
  entries : List (Nat × α) := []
  deriving DecidableEq, Repr

end Sys2Proof
end

