-- ==== Sys2Proof/Config.lean ====
section
/-!
DEFINITION. What an implementation fixes and the spec leaves open.
-/

namespace Sys2Proof.Config

/-- FREE VALUE (log entry 6). What memory keeps at the bytes of a write that it answered ERROR, other than a write of
an outbound signal cell: "the entry holds whatever memory kept" (R154, R190). The argument is the number of the burst,
so that each such write draws a value of its own. -/
opaque keptOnError : Nat → Burst

/-- DESIGN CHOICE (log entry 8): what a byte of memory reads as that nothing has written. -/
def unwritten : Byte := 0

/-- DESIGN CHOICE (log entry 1): the BASE strap of the state right after reset, before any RESET_RELEASE command. -/
def resetBase : BitVec 8 := 0

/-- DESIGN CHOICE (log entry 1): the DECODE_EN strap of the state right after reset. -/
def resetDecodeEn : Bool := true

end Sys2Proof.Config
end

