-- ==== Sys2Proof/Syntax.lean ====
section
/-!
DEFINITION. The commands of the KF-64: one constructor of `Instr` per row of spec/opcode_table.json, and the types of
their operands. Fields that software writes are given as the raw bytes it writes, of any value; the part checks them.
-/

namespace Sys2Proof

/-- A bus master's number (R161, Pins). -/
abbrev Master := Fin 16

/-- What a burst asks of memory: a read, or a write of the enabled bytes (R163: read, full write, partial write). -/
inductive BurstOp where
  | read
  | write (data : Burst) (enables : Enables)
  deriving DecidableEq, Repr

/-- When memory answers a burst that a command sends on its way: at once with OK, at once with ERROR, or later, by a
FORWARDED_BURST command of the form `answered` (R167, R168). -/
inductive MemAnswer where
  | ok
  | error
  | later
  deriving DecidableEq, Repr

/-- What happens to a forwarded burst on its way: it is taken, presented, answered (R161, R166, R168); and what the same two
ports do for the part's own bursts, which the table has no row for: the memory side carries them in turn with the forwarded
ones, and memory answers them OK (R162, R168, R172). DESIGN CHOICE: those are forms of this command (log entry 39). -/
inductive ForwardEvent where
  /-- The path switch takes a burst of a master and treats it by its address. -/
  | taken (m : Master) (addr : BitVec 32) (op : BurstOp) (ans : MemAnswer)
  /-- The memory side carries the next waiting burst, own and forwarded alternately (R168). -/
  | presented
  /-- Memory answers the n-th oldest forwarded burst not yet answered, counted from 0, OK or ERROR. -/
  | answered (n : Nat) (ok : Bool)
  /-- Memory answers OK the n-th oldest of the part's own bursts not yet answered, counted from 0; MEMORY_FAULT is its ERROR
  (R168, R169). -/
  | ownAnswered (n : Nat)
  deriving DecidableEq, Repr

/-- Where, within a close, the line and group controllers take the loss of the turrets that become LOST at it: before the
staging list, or after it and before the key timeouts, the key latches, the record listing, or after the listing. R131, R144
and R178 leave the order open: the sender of the close chooses (log entry 11). -/
inductive LossMoment where
  | beforeStaging
  | beforeTimeouts
  | beforeLatches
  | beforeListing
  | afterListing
  deriving DecidableEq, Repr

/-- The order of the work of a close that the spec lets be taken in either order (R131, R144, R178; log entry 11). -/
structure CloseOrder where
  loss : LossMoment
  /-- The ring limits and release timeouts are taken after the record listing (R144). -/
  timeoutsAfterListing : Bool
  deriving DecidableEq, Repr

/-- What every request cell write carries (R182): the master that writes, the cell, the reply ring and the tag. -/
structure RequestHead where
  master : Master
  cell : Fin 256
  ring : BitVec 8
  tag : BitVec 16
  deriving DecidableEq, Repr

/-- The commands, in the order of spec/opcode_table.json. -/
inductive Instr where
  | resetAssert
  | resetRelease (base : BitVec 8) (decodeEn : Bool)
  | frameClose (order : CloseOrder)
  | clockLost
  | secondStrobe
  | forwardedBurst (event : ForwardEvent)
  | burstAnsweredError (m : Master) (addr : BitVec 32) (op : BurstOp)
  | talkWrite (m : Master) (view : Fin 32) (place : Fin 256) (data : Burst)
  | gatherBurst (m : Master) (view : Fin 32) (place : Fin 256) (data : Burst)
  | homeRead (m : Master) (view : Fin 32) (place : Fin 256)
  | listenRead (m : Master) (view : Fin 32) (place : Fin 256)
  | sourceHomeWrite (m : Master) (source : Fin 384) (position : Fin 8) (data : Burst) (enables : Enables)
      (ans : MemAnswer)
  | inboundSignalWrite (m : Master) (line : Fin 128) (data : Burst)
  | partialCellWrite (m : Master) (addr : BitVec 32) (data : Burst) (enables : Enables) (ans : MemAnswer)
  | lineKey (head : RequestHead) (turret handset : BitVec 8) (line : BitVec 16)
  | lineRelease (head : RequestHead) (turret handset : BitVec 8) (line : BitVec 16)
  | lineHold (head : RequestHead) (turret handset : BitVec 8) (line : BitVec 16)
  | groupJoin (head : RequestHead) (turret group attach talkCap : BitVec 8)
      (listenSlot listenGain talkGain : BitVec 16)
  | groupLeave (head : RequestHead) (turret group : BitVec 8)
  | talkKey (head : RequestHead) (turret group : BitVec 8)
  | talkUnkey (head : RequestHead) (turret group : BitVec 8)
  | setTime (head : RequestHead) (seconds : BitVec 32)
  | levelSnapshot (head : RequestHead)
  | stateImage (head : RequestHead)
  | clearCounts (head : RequestHead)
  | floorRestart (head : RequestHead)
  | badRequest (m : Master) (cell : Fin 256) (data : Burst)
  | recordConsumerWrite (m : Master) (data : Burst)
  | noticeConsumerWrite (m : Master) (ring : Fin 4) (data : Burst)
  | planWrite (m : Master) (record : Fin 2048) (data : Burst)
  | planPartialWrite (m : Master) (record : Fin 2048) (data : Burst) (enables : Enables) (ans : MemAnswer)
  | homeWriteAnswered (n : Nat) (ok : Bool)
  | homeReadAnswered (n : Nat) (ok : Bool)
  | listenReadComplete (n : Nat)
  | memoryFault (n : Nat)
  | recordPlace
  | recordProgressWrite
  | noticeProgressWrite (ring : Fin 4) (index : Nat)
  | levelImageDone
  | stateImageDone
  | turretLost (turret : Fin 64)
  | ringLimit (line : Fin 128)
  | releaseTimeout (line : Fin 128)
  | keyTimeout (group : Fin 32) (turret : Fin 64)
  | guardOn (source : Fin 384)
  | cadenceStepEnd (player : Fin 128)
  | hangExpiry (source : Fin 384)
  deriving DecidableEq, Repr

end Sys2Proof
end

