-- ==== Sys2Proof/WellFormed.lean ====
section
/-!
DEFINITION. When a command is one that the part's ports can carry. The operands' types bound every number; what is left
are the alignment of a burst's address and the kind of a write.
-/

namespace Sys2Proof

/-- A burst is 32 bytes and aligned to 32 bytes (R161). -/
def alignedBurst (addr : BitVec 32) : Bool := addr.toNat % 32 == 0

/-- A partial write has fewer than 32 byte enables set (00_scope, Terms used: Burst). -/
def partialWrite (en : Enables) : Bool := en != Enables.full

/-- The command is one a master, memory or a pin can give. -/
def Instr.wellFormed : Instr → Bool
  | .forwardedBurst (.taken _ addr _ _) => alignedBurst addr
  | .burstAnsweredError _ addr _ => alignedBurst addr
  | .partialCellWrite _ addr _ en _ => alignedBurst addr && partialWrite en
  | .planPartialWrite _ _ _ en _ => partialWrite en
  | _ => true

end Sys2Proof
end

