-- ==== Sys2Proof/Machine/State.lean ====
section
/-!
DEFINITION. The state of the KF-64: one structure per block of the block diagram (00_scope), the frame memory behind
the part, and the queue of waiting commands. Every field's default is its value after power-on reset (R28, R46, R72,
R102, R113, R137, R160, R172, R187, R196); INVENTORY.md lists each with its rule.
-/

namespace Sys2Proof.Machine

/-! ### The enumerated values of R198 -/

inductive SourceKind where | mic | lineIn | feed | tone deriving DecidableEq, Repr
inductive ConcealMode where | holdOne | never deriving DecidableEq, Repr
inductive OnsetRule where | oneOf1 | twoOf3 | fourOf8 | sevenOf8 deriving DecidableEq, Repr
inductive ByteOrder where | little | big deriving DecidableEq, Repr
inductive Privacy where | oneHandset | sharedLine deriving DecidableEq, Repr
inductive RecordMode where | never | wanted | required deriving DecidableEq, Repr
inductive GroupKind where | intercom | box deriving DecidableEq, Repr
inductive Attach where | handsetL | handsetR | speaker deriving DecidableEq, Repr
inductive EndMode where | repeats | holdLast deriving DecidableEq, Repr
inductive TimeMode where | strobe | frames deriving DecidableEq, Repr
inductive Presence where | unknown | present | lost deriving DecidableEq, Repr
inductive RecorderState where | healthy | outage deriving DecidableEq, Repr
inductive Signal where | clear | seize | fault deriving DecidableEq, Repr
inductive Playout where | present | concealed | silent deriving DecidableEq, Repr
inductive AStatus where | present | concealed | silent | guarded deriving DecidableEq, Repr

inductive LineStatus where
  | idle | inboundRing | unanswered | outboundWait | connected | held | farCleared | releasing | outOfService
  deriving DecidableEq, Repr

inductive NoticeClass where | line | group | source | turret | record | result | floor deriving DecidableEq, Repr

inductive NoticeKind where
  | lineState | ringSilent | memberJoined | memberLeft | keyed | unkeyed | guardOn | guardOff | turretPresent
  | turretLost | outageBegin | outageEnd | channelSkipped | requestResult | planResult | imageDone | clockLost
  | clockRestored | floorRestarted | memoryFault | resync
  deriving DecidableEq, Repr

inductive Code where
  | done | badRequest | restarting | turretAbsent | notAppearance | busy | state | handsetBusy | termsFull
  | recorderDown | noRecordChannel | outOfService | notJoined | notMember | groupFull | alreadyMember | notTalker
  | applied | held | range | stagingFull | partialWrite
  deriving DecidableEq, Repr

inductive Cause where
  | farSeize | farClear | farFault | key | release | hold | lineSwitch | turretLost | ringLimit | releaseTimeout | plan
  | join | leave | unkey | keyTimeout | ringFull | ringFree | fault | homeWrite | homeRead | signalWrite | noticeWrite
  | progressWrite | imageWrite | recordWrite
  deriving DecidableEq, Repr

inductive RequestKind where
  | lineKey | lineRelease | lineHold | groupJoin | groupLeave | talkKey | talkUnkey | setTime | levelSnapshot
  | stateImage | clearCounts | floorRestart
  deriving DecidableEq, Repr

/-! ### The source unit -/

/-- A view record (R5). -/
structure ViewRec where
  enabled : Bool := false
  channels : Nat := 1
  width : Nat := 1
  order : ByteOrder := .little
  talkBase : Nat := 0
  listenBase : Nat := 0
  deriving DecidableEq, Repr

/-- A block in progress in a gather slot (R17): its ring position and the bursts held, after byte-order conversion. -/
structure Block where
  position : Nat
  bursts : Table Burst := {}
  deriving DecidableEq, Repr

/-- A view and its gather slots, by gather group; a group not listed has an empty slot, none (R17). -/
structure View where
  record : ViewRec := {}
  slots : Table (Option Block) := {}
  deriving DecidableEq, Repr

/-- A source record (R24) with its detection fields (R38). -/
structure SourceRec where
  enabled : Bool := false
  kind : SourceKind := .mic
  conceal : ConcealMode := .holdOne
  loop : Nat := 1
  threshold : Nat := 0
  onset : OnsetRule := .oneOf1
  hang : Nat := 1
  guardLimit : Nat := 0
  deriving DecidableEq, Repr

/-- The six arrival counts (R16). -/
structure ArrivalCounts where
  onTime : BitVec 32 := 0
  late : BitVec 32 := 0
  early : BitVec 32 := 0
  stale : BitVec 32 := 0
  duplicate : BitVec 32 := 0
  gatherBroken : BitVec 32 := 0
  deriving DecidableEq, Repr

/-- The three playout counts (R23). -/
structure PlayoutCounts where
  present : BitVec 32 := 0
  concealed : BitVec 32 := 0
  silent : BitVec 32 := 0
  deriving DecidableEq, Repr

/-- The detection state of a source (R33 to R39). The history is newest first; true is loud. -/
structure Detect where
  smoothed : Nat := 0
  peak : Nat := 0
  history : List Bool := [false, false, false, false, false, false, false, false]
  flag : Bool := false
  hang : Nat := 0
  guardRun : Nat := 0
  guarded : Bool := false
  deriving DecidableEq, Repr

/-- A source: its record, home-ring tags (a position not listed is NONE), level tags, counts, and what it hands for P. -/
structure Source where
  record : SourceRec := {}
  tags : Table (Option FrameNo) := {}
  levels : Table Nat := {}
  arrivals : ArrivalCounts := {}
  plays : PlayoutCounts := {}
  status : Playout := .silent
  level : Nat := 0
  det : Detect := {}
  deriving DecidableEq, Repr

/-- A turret record (R181). -/
structure TurretRec where
  enabled : Bool := false
  micL : Option Nat := none
  micR : Option Nat := none
  micSpeaker : Option Nat := none
  slotL : Nat := 0
  slotR : Nat := 0
  slotRinger : Nat := 0
  deriving DecidableEq, Repr

/-- A turret: its record, presence and silence run (R25). -/
structure Turret where
  record : TurretRec := {}
  presence : Presence := .unknown
  run : Nat := 0
  deriving DecidableEq, Repr

/-- Where a request is answered: its cell, reply ring and tag (R182, R183). -/
structure ReplyTo where
  cell : Nat
  ring : Nat
  tag : Nat
  deriving DecidableEq, Repr

/-- An image being written: the captured P, the requests it serves, and whether memory answered a burst ERROR (R44, R195). -/
structure ImageJob where
  frame : FrameNo
  served : List ReplyTo
  fault : Bool := false
  deriving DecidableEq, Repr

structure SourceUnit where
  F : FrameNo := 0
  lag : Nat := 2
  clockLost : Bool := false
  views : Table View := {}
  sources : Table Source := {}
  turrets : Table Turret := {}
  snapPending : List ReplyTo := []
  snapDeferred : List ReplyTo := []
  levelImage : Option ImageJob := none
  deriving DecidableEq, Repr

/-! ### The mix engine -/

/-- The origin of a term (R52). -/
inductive Origin where | plan | line | group | ring deriving DecidableEq, Repr

/-- What a term takes (R53). -/
inductive TermKind where
  | source (s : Nat)
  | bus (b : Nat) (exclude : Option Nat)
  | cadence (c : Nat)
  deriving DecidableEq, Repr

structure Term where
  kind : TermKind
  gain : Nat
  deriving DecidableEq, Repr

/-- Whether an applied term or contributor is marked for removal at the next close (R56). -/
inductive Mark where | keep | remove deriving DecidableEq, Repr

/-- An applied dynamic term; `byRecord`: the application of a line or group record placed it (R71). -/
structure DynTerm where
  term : Term
  origin : Origin
  byRecord : Bool := false
  mark : Mark := .keep
  deriving DecidableEq, Repr

/-- A pending term addition (R55); `byRecord`: asked by the application of a line or group record (R71). -/
structure TermAdd where
  term : Term
  origin : Origin
  byRecord : Bool := false
  deriving DecidableEq, Repr

/-- A listen slot's recipe with its pending edits (R52, R55, R56). -/
structure Slot where
  enabled : Bool := false
  volume : Nat := 16384
  planned : List Term := []
  dynamic : List DynTerm := []
  adds : List TermAdd := []
  deriving DecidableEq, Repr

/-- The kind of a contributor (R47). -/
inductive ContribKind where | opened | keyed deriving DecidableEq, Repr

/-- A contributor of a bus (R47). -/
structure Contributor where
  source : Nat
  gain : Nat
  kind : ContribKind
  deriving DecidableEq, Repr

/-- A contributor in force; `byRecord`: the application of a line or group record placed it (R71). -/
structure BusEntry where
  contrib : Contributor
  byRecord : Bool := false
  mark : Mark := .keep
  deriving DecidableEq, Repr

/-- A pending contributor addition; `byRecord`: asked by the application of a line or group record (R71). -/
structure BusAdd where
  contrib : Contributor
  byRecord : Bool := false
  deriving DecidableEq, Repr

/-- A bus's contributor list in force and its pending edits (R47, R59). -/
structure Bus where
  list : List BusEntry := []
  adds : List BusAdd := []
  deriving DecidableEq, Repr

/-- A term as a use of the mix fixed it (R65): with the counted contributors (source, gain) of its bus, or the tone
source of its player. -/
inductive MixTerm where
  | source (gain s : Nat)
  | bus (gain : Nat) (counted : List (Nat × Nat)) (exclude : Option Nat)
  | tone (gain : Nat) (t : Option Nat)
  deriving DecidableEq, Repr

/-- What is computed from the home frames a use reads (R70). -/
inductive Calc where
  | zeros
  | frame (s : Nat)
  | slotMix (volume : Nat) (terms : List MixTerm)
  | busValue (counted : List (Nat × Nat))
  deriving DecidableEq, Repr

/-- One use of the mix in progress: what it computes, and the frames memory has returned for it. A source with no frame
here is taken as zero (R60, R68). -/
structure Job where
  id : Nat
  work : Calc
  got : List (Nat × Burst) := []
  faulted : Bool := false
  deriving DecidableEq, Repr

/-- A listen read in flight (R65): its job, and the response queue entry that waits for it. -/
structure ListenRead where
  job : Job
  master : Nat
  entry : Nat
  order : ByteOrder
  deriving DecidableEq, Repr

structure MixEngine where
  slots : Table Slot := {}
  buses : Table Bus := {}
  cache : Table (Option (FrameNo × List Nat)) := {}
  listens : List ListenRead := []
  deriving DecidableEq, Repr

/-! ### The line controller and the ring unit -/

/-- A line record (R73). -/
structure LineRec where
  enabled : Bool := false
  far : Nat := 0
  out : Nat := 0
  privacy : Privacy := .oneHandset
  rxGain : Nat := 0
  mode : RecordMode := .never
  program : Nat := 0
  ringGain : Nat := 0
  ringLimit : Nat := 0
  hold : Option Nat := none
  deriving DecidableEq, Repr

/-- An entry of an appearance bank (R74). -/
structure Appearance where
  turret : Nat
  rings : Bool
  deriving DecidableEq, Repr

/-- A line: its record, banks and state record (R79). -/
structure Line where
  record : LineRec := {}
  bank0 : List (Option Appearance) := []
  bank1 : List (Option Appearance) := []
  status : LineStatus := .idle
  inbound : Signal := .clear
  joined : List Nat := []
  holdPlaced : Bool := false
  ringRun : Nat := 0
  releaseTimer : Nat := 0
  deriving DecidableEq, Repr

/-- An entry of the handset occupancy table (R78). -/
inductive Occupancy where
  | vacant
  | line (n : Nat)
  | group (g : Nat)
  deriving DecidableEq, Repr

structure LineUnit where
  lines : Table Line := {}
  occupancy : Table Occupancy := {}
  deriving DecidableEq, Repr

/-- A step of a cadence program (R103). -/
structure Step where
  duration : Nat
  tone : Option Nat
  gate : Bool
  deriving DecidableEq, Repr

structure Program where
  ending : EndMode := .repeats
  steps : List Step := []
  deriving DecidableEq, Repr

inductive Phase where | stopped | starting | stepping | holding deriving DecidableEq, Repr

/-- A cadence player (R104). -/
structure Player where
  phase : Phase := .stopped
  index : Nat := 0
  left : Nat := 0
  gate : Bool := false
  tone : Option Nat := none
  terms : List (Nat × Nat) := []
  entry : Option Cause := none
  deriving DecidableEq, Repr

structure RingUnit where
  programs : Table Program := {}
  players : Table Player := {}
  deriving DecidableEq, Repr

/-! ### The group controller -/

structure Feed where
  source : Nat
  gain : Nat
  slot : Nat
  deriving DecidableEq, Repr

/-- A group record (R114). -/
structure GroupRec where
  enabled : Bool := false
  kind : GroupKind := .intercom
  cap : Nat := 1
  keyLimit : Nat := 0
  mode : RecordMode := .never
  feeds : List Feed := []
  deriving DecidableEq, Repr

/-- A member record (R118). -/
structure Member where
  turret : Nat
  attach : Attach
  mic : Option Nat
  slot : Nat
  listenGain : Nat
  talker : Bool
  talkGain : Nat
  keyed : Bool := false
  keyedRun : Nat := 0
  deriving DecidableEq, Repr

/-- A group: its record, member list, and the mic sources whose key is latched for P (R128). -/
structure Group where
  record : GroupRec := {}
  members : List Member := []
  latched : List Nat := []
  deriving DecidableEq, Repr

structure GroupUnit where
  groups : Table Group := {}
  deriving DecidableEq, Repr

/-! ### The record unit -/

/-- What a record channel is bound to (R138). -/
inductive Obj where
  | line (n : Nat)
  | group (g : Nat)
  deriving DecidableEq, Repr

/-- A record channel (R138). -/
structure Channel where
  bound : Option Obj := none
  dropped : Nat := 0
  deriving DecidableEq, Repr

/-- A listed record not yet placed (R144 to R148). -/
structure PendingRecord where
  batch : Nat
  channel : Nat
  object : Obj
  frame : FrameNo
  seconds : BitVec 32
  frameInSecond : Nat
  aStatus : AStatus
  stateByte : Nat
  talkers : List Nat
  aPart : Job
  bPart : Job
  /-- The channel has been freed since the listing: it is no longer bound to the object of the listing, whatever it is granted to
  since (R150). -/
  freed : Bool := false
  deriving DecidableEq, Repr

/-- The records of one close, while its progress cell is still to be written (R152). -/
structure Batch where
  id : Nat
  frame : FrameNo
  wrote : Bool := false
  producerAfter : Nat := 0
  deriving DecidableEq, Repr

structure RecordUnit where
  channels : Table Channel := {}
  status : RecorderState := .healthy
  cap : Nat := 4096
  producer : Nat := 0
  consumer : Nat := 0
  seconds : BitVec 32 := 0
  frameInSecond : Nat := 0
  fresh : Bool := false
  staged : Option (BitVec 32) := none
  records : List PendingRecord := []
  batches : List Batch := []
  deriving DecidableEq, Repr

/-! ### The path switch -/

/-- The response a master receives (R167). -/
inductive Response where
  | ok
  | okData (d : Burst)
  | error
  deriving DecidableEq, Repr

/-- An entry of a response queue (R166): its response is known once it awaits no answer. -/
structure Entry where
  id : Nat
  awaiting : Nat
  response : Response
  deriving DecidableEq, Repr

/-- The block a forwarded write is handed to when memory answers it OK (R163, R165). -/
inductive Hand where
  | nobody
  | inbound (n : Nat)
  | request (cell : Nat)
  | noticeConsumer (k : Nat)
  | recordConsumer
  | plan (record : Nat)
  deriving DecidableEq, Repr

/-- Whose burst it is, and what its answer is for (R167, and the table of the part's own traffic in 08). -/
inductive Owner where
  | master (m entry : Nat) (hand : Hand)
  | homeWrite (source m entry : Nat)
  | homeRead (source m entry : Nat) (order : ByteOrder)
  | jobRead (source job : Nat)
  | signal (line : Nat)
  | notice (ring index : Nat)
  | noticeProgress (ring : Nat)
  | levelImage
  | stateImage
  /-- A burst of an image that a power-on reset has abandoned (R162, log entry 20). -/
  | abandonedImage
  | record (channel batch : Nat)
  | recordProgress
  deriving DecidableEq, Repr

/-- A burst on its way to memory or waiting for memory's answer; `addr` is its byte address, a multiple of 32. -/
structure Flight where
  id : Nat
  addr : Nat
  op : BurstOp
  owner : Owner
  deriving DecidableEq, Repr

structure PathSwitch where
  base : BitVec 8 := Config.resetBase
  decodeEn : Bool := Config.resetDecodeEn
  resetAsserted : Bool := false
  queues : Table (List Entry) := {}
  partialWrites : BitVec 32 := 0
  memoryFaults : BitVec 32 := 0
  faultMark : Bool := false
  ownWait : List Flight := []
  fwdWait : List Flight := []
  presented : List Flight := []
  lastOwn : Bool := true
  nextId : Nat := 0
  returned : List (Nat × Response) := []
  deriving DecidableEq, Repr

/-! ### The plan unit -/

/-- An entry of the staging list (R174): the record number of R173's address, its 32 bytes, its held mark. -/
structure Staged where
  record : Nat
  data : Burst
  held : Bool := false
  deriving DecidableEq, Repr

/-- The floor record (R180). -/
structure FloorRec where
  lag : Nat := 2
  lossLimit : Nat := 50
  releaseLimit : Nat := 2000
  timeMode : TimeMode := .strobe
  margin : Nat := 1024
  recordCap : Nat := 4096
  noticeCap0 : Nat := 256
  noticeCap1 : Nat := 256
  noticeCap2 : Nat := 256
  noticeCap3 : Nat := 256
  routeLine : Nat := 0
  routeGroup : Nat := 0
  routeSource : Nat := 0
  routeTurret : Nat := 0
  routeRecord : Nat := 0
  routeResult : Nat := 0
  routeFloor : Nat := 0
  enables : BitVec 4 := 0
  deriving DecidableEq, Repr

structure PlanUnit where
  staging : List Staged := []
  floor : FloorRec := {}
  clears : List ReplyTo := []
  restart : Option ReplyTo := none
  deriving DecidableEq, Repr

/-! ### The notice unit -/

/-- A notice ring (R190). `unpublished` lists the notices written since the published index, oldest first: each by the number of its
burst, or none where the part issued no burst (R162, R192; log entry 32). -/
structure Ring where
  cap : Nat := 256
  producer : Nat := 0
  consumer : Nat := 0
  published : Nat := 0
  mark : Bool := false
  discards : Nat := 0
  unpublished : List (Option Nat) := []
  deriving DecidableEq, Repr

structure NoticeUnit where
  rings : Table Ring := {}
  imagePending : List ReplyTo := []
  imageDeferred : List ReplyTo := []
  image : Option ImageJob := none
  deriving DecidableEq, Repr

/-- A notice, as the block that hands it on gives it (R188). -/
structure Notice where
  cls : NoticeClass
  kind : NoticeKind
  cause : Option Cause := none
  code : Code := .done
  frame : FrameNo
  object : Option Nat := none
  turret : Option Nat := none
  handset : Option Nat := none
  old : Option Nat := none
  new : Option Nat := none
  tag : Nat := 0
  deriving DecidableEq, Repr

/-! ### The whole -/

/-- The state of the part, of the frame memory behind it, and of the queue of commands. -/
structure State where
  src : SourceUnit := {}
  mix : MixEngine := {}
  line : LineUnit := {}
  ring : RingUnit := {}
  group : GroupUnit := {}
  recorder : RecordUnit := {}
  path : PathSwitch := {}
  plan : PlanUnit := {}
  notice : NoticeUnit := {}
  /-- The frame memory: addresses strictly rising, no byte listed that reads as an unlisted one (log entry 8). -/
  mem : List Host.Cell := []
  /-- The commands waiting, first in, first out (log entry 9). -/
  pending : List Instr := []
  deriving DecidableEq, Repr

/-- The machine right after the release of RESET (R161, R162), with the straps of Config. -/
def State.reset : State := {}

/-- Why a step stops. No rule of the spec stops the part, so there is no fault: memory's errors are counted and notified
(R169, R170), and a refused burst is answered ERROR (R163). -/
inductive Fault where
  deriving DecidableEq, Repr

/-- Why a command has no meaning. -/
inductive Refusal where
  /-- Raised by `exec` for a command the model gives no meaning; safe, since no claim can be drawn from it. No arm of
  `exec` uses it. -/
  | notModelled (mnemonic : String)
  deriving DecidableEq, Repr

end Sys2Proof.Machine
end

