-- ==== Sys2Proof/Machine/Table.lean ====
section
/-!
DEFINITION. Reading and writing the tables of numbered things, and the bits and bytes of a burst.
-/

namespace Sys2Proof

/-- The entry listed for number `i`, if any. -/
def lookup {α : Type} : List (Nat × α) → Nat → Option α
  | [], _ => none
  | (j, y) :: rest, i => if i = j then some y else lookup rest i

/-- The list with `x` at number `i`, in ascending order of numbers. -/
def place {α : Type} : List (Nat × α) → Nat → α → List (Nat × α)
  | [], i, x => [(i, x)]
  | (j, y) :: rest, i, x =>
    if i < j then (i, x) :: (j, y) :: rest
    else if i = j then (i, x) :: rest
    else (j, y) :: place rest i x

/-- Thing `i` of a table whose unlisted things are `d`. -/
def Table.get {α : Type} (t : Table α) (d : α) (i : Nat) : α := (lookup t.entries i).getD d

/-- The table with thing `i` replaced. -/
def Table.set {α : Type} (t : Table α) (i : Nat) (x : α) : Table α := ⟨place t.entries i x⟩

/-- The table with every listed thing changed by `f`, which is to leave an unlisted thing as it is. -/
def Table.map {α : Type} (f : Nat → α → α) (t : Table α) : Table α := ⟨t.entries.map fun e => (e.1, f e.1 e.2)⟩

/-- The numbers a table lists. -/
def Table.keys {α : Type} (t : Table α) : List Nat := t.entries.map (·.1)

/-- The first element that satisfies `p`, changed by `f`. -/
def changeFirst {α : Type} (p : α → Bool) (f : α → α) : List α → List α
  | [] => []
  | x :: xs => if p x then f x :: xs else x :: changeFirst p f xs

/-- The last element that satisfies `p`, changed by `f`. -/
def changeLast {α : Type} (p : α → Bool) (f : α → α) (l : List α) : List α := (changeFirst p f l.reverse).reverse

/-- The list without the last element that satisfies `p`. -/
def dropLastWhere {α : Type} (p : α → Bool) (l : List α) : List α := (l.reverse.eraseP p).reverse

namespace Machine

/-- The number in the `len` bytes of a burst from byte `off` on, little-endian (11, Central Formats). -/
def field (d : Burst) (off len : Nat) : Nat := d.toNat / 2 ^ (8 * off) % 2 ^ (8 * len)

/-- Bit `i` of a burst. -/
def bit (d : Burst) (i : Nat) : Bool := d.getLsbD i

/-- Byte `i` of a burst. -/
def byteOf (d : Burst) (i : Nat) : Byte := BitVec.ofNat 8 (field d i 1)

/-- The number that bytes hold, the first least significant. -/
def bytesValue : List Byte → Nat
  | [] => 0
  | b :: rest => b.toNat + 256 * bytesValue rest

/-- The burst whose bytes from byte 0 on are those of the list, and 0 beyond them (R197: reserved bytes are 0). -/
def packBytes (l : List Byte) : Burst := BitVec.ofNat 256 (bytesValue l)

/-- A number as `n` little-endian bytes. -/
def le : Nat → Nat → List Byte
  | 0, _ => []
  | n + 1, v => BitVec.ofNat 8 v :: le n (v / 256)

/-- A byte field that can be none: 0xFF for none (11, Central Formats). -/
def optByte (o : Option Nat) : List Byte := le 1 (o.getD 255)

/-- A 16-bit field that can be none: 0xFFFF for none. -/
def optHalf (o : Option Nat) : List Byte := le 2 (o.getD 65535)

/-- Sample `i` of a frame: bytes 2i and 2i + 1, signed, low byte first (R8, 11 Central Formats). -/
def sample (d : Burst) (i : Nat) : Int := (BitVec.ofNat 16 (field d (2 * i) 2)).toInt

/-- The frame of 16 samples in time order. -/
def packSamples (l : List Int) : Burst := packBytes (l.flatMap fun x => le 2 (BitVec.ofInt 16 x).toNat)

/-- The frame with the two bytes of each sample exchanged: what a BIG view shows of a little-endian frame, and back (R8). -/
def swapSamples (d : Burst) : Burst :=
  packBytes ((List.range 16).flatMap fun i => [byteOf d (2 * i + 1), byteOf d (2 * i)])

/-- A frame as seen through a view, or the frame that a view shows: R8 converts the same way in both directions. -/
def ByteOrder.convert : ByteOrder → Burst → Burst
  | .little, d => d
  | .big, d => swapSamples d

/-- The frame level: floor of the mean magnitude of the 16 samples (R29). -/
def frameLevel (d : Burst) : Nat := ((List.range 16).map fun i => (sample d i).natAbs).sum / 16

/-- The burst write's data laid over what memory holds, byte by byte where enabled. -/
def mergeBytes (old new : Burst) (en : Enables) : Burst :=
  packBytes ((List.range 32).map fun i => if en.getLsbD i then byteOf new i else byteOf old i)

/-! ### The frame memory -/

/-- One byte of memory (log entry 8: an unlisted one reads as `Config.unwritten`). -/
def readByte (m : List Host.Cell) (a : Nat) : Byte := (lookup m a).getD Config.unwritten

/-- The 32 bytes from address `a` on. -/
def readBurst (m : List Host.Cell) (a : Nat) : Burst := packBytes ((List.range 32).map fun i => readByte m (a + i))

/-- The cells to list for the 32 bytes of a burst at address `a`: those that do not read as an unlisted byte. -/
def burstCells (a : Nat) (d : Burst) : List Host.Cell :=
  (List.range 32).filterMap fun i => if byteOf d i = Config.unwritten then none else some (a + i, byteOf d i)

/-- Memory with the 32 bytes from address `a` on replaced. -/
def storeBurst (m : List Host.Cell) (a : Nat) (d : Burst) : List Host.Cell :=
  m.filter (fun c => c.1 < a) ++ burstCells a d ++ m.filter (fun c => a + 32 ≤ c.1)

/-- Memory after a burst write of the enabled bytes (00_scope, Burst; R163). -/
def writeBurst (m : List Host.Cell) (a : Nat) (d : Burst) (en : Enables) : List Host.Cell :=
  storeBurst m a (mergeBytes (readBurst m a) d en)

/-- The canonical form of memory: addresses strictly rising, no byte listed that reads as an unlisted one. -/
abbrev MemoryCanonical (m : List Host.Cell) : Prop :=
  m.Pairwise (fun c e => c.1 < e.1) ∧ ∀ c ∈ m, c.2 ≠ Config.unwritten

end Machine

end Sys2Proof
end

