-- ==== Sys2Proof/Machine/Operands.lean ====
section
/-!
DEFINITION. The formats of Central Formats: the codes of R198, the plan records as R177's range step reads them, the
notices of R199, the records of R148, and the images of R44 and R195.
-/

namespace Sys2Proof.Machine

/-! ### Codes: the position of a value in its list (R198) -/

def SourceKind.list : List SourceKind := [.mic, .lineIn, .feed, .tone]
def ConcealMode.list : List ConcealMode := [.holdOne, .never]
def OnsetRule.list : List OnsetRule := [.oneOf1, .twoOf3, .fourOf8, .sevenOf8]
def ByteOrder.list : List ByteOrder := [.little, .big]
def Privacy.list : List Privacy := [.oneHandset, .sharedLine]
def RecordMode.list : List RecordMode := [.never, .wanted, .required]
def GroupKind.list : List GroupKind := [.intercom, .box]
def Attach.list : List Attach := [.handsetL, .handsetR, .speaker]
def EndMode.list : List EndMode := [.repeats, .holdLast]
def TimeMode.list : List TimeMode := [.strobe, .frames]
def Presence.list : List Presence := [.unknown, .present, .lost]
def RecorderState.list : List RecorderState := [.healthy, .outage]
def Signal.list : List Signal := [.clear, .seize, .fault]
def Playout.list : List Playout := [.present, .concealed, .silent]
def AStatus.list : List AStatus := [.present, .concealed, .silent, .guarded]
def LineStatus.list : List LineStatus :=
  [.idle, .inboundRing, .unanswered, .outboundWait, .connected, .held, .farCleared, .releasing, .outOfService]
def NoticeClass.list : List NoticeClass := [.line, .group, .source, .turret, .record, .result, .floor]
def NoticeKind.list : List NoticeKind :=
  [.lineState, .ringSilent, .memberJoined, .memberLeft, .keyed, .unkeyed, .guardOn, .guardOff, .turretPresent,
   .turretLost, .outageBegin, .outageEnd, .channelSkipped, .requestResult, .planResult, .imageDone, .clockLost,
   .clockRestored, .floorRestarted, .memoryFault, .resync]
def Code.list : List Code :=
  [.done, .badRequest, .restarting, .turretAbsent, .notAppearance, .busy, .state, .handsetBusy, .termsFull,
   .recorderDown, .noRecordChannel, .outOfService, .notJoined, .notMember, .groupFull, .alreadyMember, .notTalker,
   .applied, .held, .range, .stagingFull, .partialWrite]
def Cause.list : List Cause :=
  [.farSeize, .farClear, .farFault, .key, .release, .hold, .lineSwitch, .turretLost, .ringLimit, .releaseTimeout, .plan,
   .join, .leave, .unkey, .keyTimeout, .ringFull, .ringFree, .fault, .homeWrite, .homeRead, .signalWrite, .noticeWrite,
   .progressWrite, .imageWrite, .recordWrite]
def RequestKind.list : List RequestKind :=
  [.lineKey, .lineRelease, .lineHold, .groupJoin, .groupLeave, .talkKey, .talkUnkey, .setTime, .levelSnapshot,
   .stateImage, .clearCounts, .floorRestart]

/-- The code of a value: its position in the list of its field (R198). -/
def codeIn {α : Type} [DecidableEq α] (l : List α) (x : α) : Nat := l.findIdx (fun y => decide (y = x))

def LineStatus.code (x : LineStatus) : Nat := codeIn LineStatus.list x
def Signal.code (x : Signal) : Nat := codeIn Signal.list x
def RecorderState.code (x : RecorderState) : Nat := codeIn RecorderState.list x
def RequestKind.code (x : RequestKind) : Nat := codeIn RequestKind.list x

/-- The code of an object kind: none, LINE, GROUP (R198). -/
def Obj.kindCode : Obj → Nat
  | .line _ => 1
  | .group _ => 2

/-- The object's number. -/
def Obj.number : Obj → Nat
  | .line n => n
  | .group g => g

/-! ### Plan records -/

/-- The object a record number configures (the record table of 09), with the kind code of R198. -/
inductive RecordId where
  | floor
  | view (v : Nat)
  | turret (t : Nat)
  | program (c : Nat)
  | group (g : Nat)
  | source (s : Nat)
  | recipe (u : Nat)
  | line (n : Nat)
  | bank0 (n : Nat)
  | bank1 (n : Nat)
  deriving DecidableEq, Repr

/-- The object of a record number, if the offset is a record address of the table of 09 (R173). A record number is the
offset in the plan area divided by 32. -/
def recordId (r : Nat) : Option RecordId :=
  if r = 0 then some .floor
  else if 32 ≤ r ∧ r < 64 then some (.view (r - 32))
  else if 64 ≤ r ∧ r < 128 then some (.turret (r - 64))
  else if 128 ≤ r ∧ r < 144 then some (.program (r - 128))
  else if 160 ≤ r ∧ r < 192 then some (.group (r - 160))
  else if 256 ≤ r ∧ r < 640 then some (.source (r - 256))
  else if 640 ≤ r ∧ r < 896 then some (.recipe (r - 640))
  else if 1024 ≤ r ∧ r < 1152 then some (.line (r - 1024))
  else if 1152 ≤ r ∧ r < 1280 then some (.bank0 (r - 1152))
  else if 1280 ≤ r ∧ r < 1408 then some (.bank1 (r - 1280))
  else none

/-- The plan record kind's code (R198). -/
def RecordId.kindCode : RecordId → Nat
  | .floor => 0
  | .view _ => 1
  | .turret _ => 2
  | .program _ => 3
  | .group _ => 4
  | .source _ => 5
  | .recipe _ => 6
  | .line _ => 7
  | .bank0 _ => 8
  | .bank1 _ => 9

/-- The tag of a plan record: bytes 30 and 31. -/
def planTag (d : Burst) : Nat := field d 30 2

/-- A scalar clamped into its range (R177, step 3). -/
def clamp (lo hi x : Nat) : Nat := max lo (min hi x)

/-- A yes/no field: bit 0 of its byte, the other bits ignored (11, R197). -/
def yesNo (d : Burst) (byte : Nat) : Bool := bit d (8 * byte)

/-- A 16-bit source reference that can be none: the reference, or nothing where it is out of range (R198). -/
def sourceRef (v : Nat) : Option (Option Nat) :=
  if v = 65535 then some none else if v ≤ 383 then some (some v) else none

/-- R5: a view record, or none where it is refused RANGE. -/
def parseView (d : Burst) : Option ViewRec :=
  let n := field d 1 1
  let c := field d 2 1
  let talk := field d 4 2
  let listen := field d 6 2
  match ByteOrder.list[field d 3 1]? with
  | none => none
  | some o =>
    if 1 ≤ n ∧ n ≤ 16 ∧ (c = 1 ∨ c = 2 ∨ c = 4 ∨ c = 8) ∧ n % c = 0 ∧ talk + n ≤ 384 ∧ listen + n ≤ 256 then
      some { enabled := yesNo d 0, channels := n, width := c, order := o, talkBase := talk, listenBase := listen }
    else none

/-- R24, R38, R177: a source record. -/
def parseSource (d : Burst) : Option SourceRec :=
  match SourceKind.list[field d 1 1]?, ConcealMode.list[field d 2 1]?, OnsetRule.list[field d 6 1]? with
  | some k, some c, some o =>
    some { enabled := yesNo d 0, kind := k, conceal := c, loop := clamp 1 8 (field d 3 1), threshold := field d 4 2,
           onset := o, hang := clamp 1 255 (field d 7 1), guardLimit := field d 8 2 }
  | _, _, _ => none

/-- R181: a turret record. -/
def parseTurret (d : Burst) : Option TurretRec :=
  match sourceRef (field d 2 2), sourceRef (field d 4 2), sourceRef (field d 6 2) with
  | some l, some r, some sp =>
    if field d 8 2 ≤ 255 ∧ field d 10 2 ≤ 255 ∧ field d 12 2 ≤ 255 then
      some { enabled := yesNo d 0, micL := l, micR := r, micSpeaker := sp, slotL := field d 8 2,
             slotR := field d 10 2, slotRinger := field d 12 2 }
    else none
  | _, _, _ => none

/-- R73: a line record. -/
def parseLine (d : Burst) : Option LineRec :=
  match Privacy.list[field d 1 1]?, RecordMode.list[field d 2 1]?, sourceRef (field d 14 2) with
  | some p, some m, some h =>
    if field d 3 1 ≤ 15 ∧ field d 4 2 ≤ 383 ∧ field d 6 2 ≤ 255 then
      some { enabled := yesNo d 0, privacy := p, mode := m, program := field d 3 1, far := field d 4 2,
             out := field d 6 2, rxGain := clamp 0 32767 (field d 8 2), ringGain := clamp 0 32767 (field d 10 2),
             ringLimit := clamp 0 255 (field d 12 1), hold := h }
    else none
  | _, _, _ => none

/-- One entry of an appearance bank: its turret byte (0xFF empty), then its ring flag. -/
def bankEntry (d : Burst) (i : Nat) : Option Appearance :=
  if field d (2 * i) 1 = 255 then none else some { turret := field d (2 * i) 1, rings := yesNo d (2 * i + 1) }

/-- The turrets that a bank's entries name. -/
def bankTurrets (b : List (Option Appearance)) : List Nat := b.filterMap fun e => e.map (·.turret)

/-- R74: an appearance bank, checked against the other bank in force. -/
def parseBank (d : Burst) (other : List (Option Appearance)) : Option (List (Option Appearance)) :=
  let b := (List.range 8).map (bankEntry d)
  let ts := bankTurrets b
  if (∀ t ∈ ts, t ≤ 63 ∧ t ∉ bankTurrets other) ∧ ts.Nodup then some b else none

/-- Feed `i` of a group record: source (2 bytes), talk gain (2), feed-out slot (1). -/
def feedAt (d : Burst) (i : Nat) : Feed :=
  { source := field d (8 + 5 * i) 2, gain := clamp 0 32767 (field d (10 + 5 * i) 2), slot := field d (12 + 5 * i) 1 }

/-- R114: a group record. -/
def parseGroup (d : Burst) : Option GroupRec :=
  let feeds := (List.range (field d 6 1)).map (feedAt d)
  match GroupKind.list[field d 1 1]?, RecordMode.list[field d 3 1]? with
  | some k, some m =>
    if field d 6 1 ≤ 4 ∧ (∀ f ∈ feeds, f.source ≤ 383) ∧ (feeds.map (·.source)).Nodup then
      some { enabled := yesNo d 0, kind := k, cap := clamp 1 6 (field d 2 1), keyLimit := field d 4 2, mode := m,
             feeds := feeds }
    else none
  | _, _ => none

/-- Step `i` of a cadence program record: duration (2 bytes), then tone source in bits 0 to 8 and gate in bits 12 and 13. -/
def stepAt (d : Burst) (i : Nat) : Option Step :=
  let w := field d (4 + 4 * i) 2
  let tone := w % 512
  let gate := w / 4096 % 4
  if gate ≤ 1 ∧ (tone ≤ 383 ∨ tone = 511) then
    some { duration := max 1 (field d (2 + 4 * i) 2), tone := if tone = 511 then none else some tone, gate := gate = 1 }
  else none

/-- All of a list of optional values, or none where one is missing. -/
def allSome {α : Type} : List (Option α) → Option (List α)
  | [] => some []
  | none :: _ => none
  | some x :: rest => (allSome rest).map (x :: ·)

/-- R103: a cadence program record. -/
def parseProgram (d : Burst) : Option Program :=
  let n := field d 0 1
  if 1 ≤ n ∧ n ≤ 6 then
    match EndMode.list[field d 1 1]?, allSome ((List.range n).map (stepAt d)) with
    | some e, some steps => some { ending := e, steps := steps }
    | _, _ => none
  else none

/-- Planned-term place `k` of a recipe record, as it stands (11, Plan records): nothing where it is out of range (R54),
`some none` where the place is empty. -/
def placeAt (d : Burst) (k : Nat) : Option (Option Term) :=
  let w := d.toNat / 2 ^ (16 + 36 * k) % 2 ^ 36
  let g := w % 2 ^ 15
  let num := w / 2 ^ 15 % 2 ^ 9
  let excl := w / 2 ^ 24 % 2 ^ 9
  let kind := w / 2 ^ 33
  if kind = 0 then some none
  else if kind = 1 ∧ num ≤ 383 then some (some { kind := .source num, gain := g })
  else if kind = 2 ∧ num ≤ 159 ∧ (excl ≤ 383 ∨ excl = 511) then
    some (some { kind := .bus num (if excl = 511 then none else some excl), gain := g })
  else if kind = 3 ∧ num ≤ 127 then some (some { kind := .cadence num, gain := g })
  else none

/-- What a recipe record gives its slot (R54). -/
structure RecipeRec where
  enabled : Bool
  volume : Nat
  planned : List Term
  deriving DecidableEq, Repr

/-- R54: a recipe record. -/
def parseRecipe (d : Burst) : Option RecipeRec :=
  match allSome ((List.range 6).map (placeAt d)) with
  | none => none
  | some places =>
    some { enabled := bit d 15, volume := clamp 0 16384 (field d 0 2 % 2 ^ 15), planned := places.filterMap id }

/-- R180: a floor record. DESIGN CHOICE: of byte 27, the interrupt enables of rings 0 to 3 in bits 0 to 3, bits 4 to 7, which the table
neither names nor marks reserved, are ignored, as reserved bits are (R197; log entry 41). -/
def parseFloor (d : Burst) : Option FloorRec :=
  match TimeMode.list[field d 1 1]? with
  | none => none
  | some tm =>
    if ∀ i ∈ List.range 7, field d (20 + i) 1 ≤ 3 then
      some { lag := clamp 1 6 (field d 0 1), lossLimit := clamp 1 1000 (field d 2 2),
             releaseLimit := clamp 100 10000 (field d 4 2), timeMode := tm, margin := clamp 1 65535 (field d 6 2),
             recordCap := clamp 64 65536 (field d 8 4), noticeCap0 := clamp 16 1024 (field d 12 2),
             noticeCap1 := clamp 16 1024 (field d 14 2), noticeCap2 := clamp 16 1024 (field d 16 2),
             noticeCap3 := clamp 16 1024 (field d 18 2), routeLine := field d 20 1, routeGroup := field d 21 1,
             routeSource := field d 22 1, routeTurret := field d 23 1, routeRecord := field d 24 1,
             routeResult := field d 25 1, routeFloor := field d 26 1, enables := BitVec.ofNat 4 (field d 27 1) }
    else none

/-! ### What the part writes -/

/-- The burst of a notice (R199). -/
def encodeNotice (n : Notice) : Burst :=
  packBytes
    (le 1 (codeIn NoticeClass.list n.cls) ++ le 1 (codeIn NoticeKind.list n.kind)
      ++ optByte (n.cause.map (codeIn Cause.list)) ++ le 1 (codeIn Code.list n.code) ++ le 4 n.frame.toNat
      ++ optHalf n.object ++ optByte n.turret ++ optByte n.handset ++ optByte n.old ++ optByte n.new ++ le 2 n.tag)

/-- The outbound signal cell (11, Cells): the signal state, then F at bytes 4 to 7. DESIGN CHOICE: bytes 8 to 31, which the table does
not name, are 0 (log entry 41). -/
def encodeOutbound (state : Signal) (F : FrameNo) : Burst :=
  packBytes (le 1 state.code ++ le 3 0 ++ le 4 F.toNat)

/-- A notice progress cell: the published producer index and F. -/
def encodeNoticeProgress (index : Nat) (F : FrameNo) : Burst := packBytes (le 4 index ++ le 4 F.toNat)

/-- The record progress cell: the producer index, the P of the close, the recorder state. -/
def encodeRecordProgress (index : Nat) (P : FrameNo) (st : RecorderState) : Burst :=
  packBytes (le 4 index ++ le 4 P.toNat ++ le 1 st.code)

/-- Bytes 0 to 29 of a record's header (11, The record). -/
def recordHeader (r : PendingRecord) (dropped : Nat) : List Byte :=
  let noB : Nat := match r.object with | .line _ => 0 | .group _ => 1
  let fault : Nat := if r.aPart.faulted ∨ r.bPart.faulted then 1 else 0
  le 1 r.channel ++ le 1 r.object.kindCode ++ le 2 r.object.number ++ le 4 r.frame.toNat ++ le 4 r.seconds.toNat
    ++ le 2 r.frameInSecond ++ le 1 (codeIn AStatus.list r.aStatus + 4 * noB + 8 * fault) ++ le 1 r.stateByte
    ++ le 2 dropped ++ (List.range 6).flatMap fun i => optHalf r.talkers[i]?

/-- The sum of the 32 bytes of a burst. -/
def byteSum (d : Burst) : Nat := ((List.range 32).map fun i => (byteOf d i).toNat).sum

/-- The checksum of a record: 65535 minus the sum of the other 94 bytes, modulo 65536 (R149). -/
def recordChecksum (header : List Byte) (a b : Burst) : Nat :=
  (65535 - ((header.map fun x => x.toNat).sum + byteSum a + byteSum b)) % 65536

/-- Burst 0 of a record, its checksum in bytes 30 and 31 (R148, R149). -/
def encodeHeader (r : PendingRecord) (dropped : Nat) (a b : Burst) : Burst :=
  let h := recordHeader r dropped
  packBytes (h ++ le 2 (recordChecksum h a b))

/-- Bytes cut into `n` bursts. -/
def cutBursts : Nat → List Byte → List Burst
  | 0, _ => []
  | n + 1, l => packBytes (l.take 32) :: cutBursts n (l.drop 32)

end Sys2Proof.Machine
end

