-- ==== Sys2Proof/Machine/Flags.lean ====
section
/-!
DEFINITION. Reading the state: the numbered things, and what is computed from them (the playout frame, what a source
hands for P, outbound states, occupancies, free spaces, interrupt outputs).
-/

namespace Sys2Proof.Machine

/-! ### Things by number -/

def State.view (s : State) (v : Nat) : View := s.src.views.get {} v
def State.source (s : State) (i : Nat) : Source := s.src.sources.get {} i
def State.turret (s : State) (t : Nat) : Turret := s.src.turrets.get {} t
def State.slot (s : State) (u : Nat) : Slot := s.mix.slots.get {} u
def State.bus (s : State) (b : Nat) : Bus := s.mix.buses.get {} b
def State.lineAt (s : State) (n : Nat) : Line := s.line.lines.get {} n
def State.occupancy (s : State) (h : Nat) : Occupancy := s.line.occupancy.get .vacant h
def State.program (s : State) (c : Nat) : Program := s.ring.programs.get {} c
def State.player (s : State) (n : Nat) : Player := s.ring.players.get {} n
def State.groupAt (s : State) (g : Nat) : Group := s.group.groups.get {} g
def State.channel (s : State) (c : Nat) : Channel := s.recorder.channels.get {} c
def State.noticeRing (s : State) (k : Nat) : Ring := s.notice.rings.get {} k
def State.queue (s : State) (m : Nat) : List Entry := s.path.queues.get [] m

def State.setView (s : State) (v : Nat) (x : View) : State := { s with src.views := s.src.views.set v x }
def State.setSource (s : State) (i : Nat) (x : Source) : State := { s with src.sources := s.src.sources.set i x }
def State.setTurret (s : State) (t : Nat) (x : Turret) : State := { s with src.turrets := s.src.turrets.set t x }
def State.setSlot (s : State) (u : Nat) (x : Slot) : State := { s with mix.slots := s.mix.slots.set u x }
def State.setLine (s : State) (n : Nat) (x : Line) : State := { s with line.lines := s.line.lines.set n x }
def State.setOccupancy (s : State) (h : Nat) (x : Occupancy) : State :=
  { s with line.occupancy := s.line.occupancy.set h x }
def State.setProgram (s : State) (c : Nat) (x : Program) : State := { s with ring.programs := s.ring.programs.set c x }
def State.setPlayer (s : State) (n : Nat) (x : Player) : State := { s with ring.players := s.ring.players.set n x }
def State.setGroup (s : State) (g : Nat) (x : Group) : State := { s with group.groups := s.group.groups.set g x }
def State.setChannel (s : State) (c : Nat) (x : Channel) : State :=
  { s with recorder.channels := s.recorder.channels.set c x }
def State.setRing (s : State) (k : Nat) (x : Ring) : State := { s with notice.rings := s.notice.rings.set k x }
def State.setQueue (s : State) (m : Nat) (q : List Entry) : State := { s with path.queues := s.path.queues.set m q }

/-! ### Frames and sources -/

/-- The playout frame of an open frame and a lag: P = F - L in 32-bit arithmetic (R1). -/
def playout (F : FrameNo) (lag : Nat) : FrameNo := F - BitVec.ofNat 32 lag

/-- The playout frame P (R1). -/
def State.P (s : State) : FrameNo := playout s.src.F s.src.lag

/-- A source is taken for intake, and is detected, while it is enabled and of kind MIC, LINE_IN or FEED (R12, R31). -/
def Source.intake (x : Source) : Bool := x.record.enabled && x.record.kind != .tone

/-- The tag of a home-ring position. -/
def Source.tag (x : Source) (q : Nat) : Option FrameNo := x.tags.get none q

/-- The level tag of a home-ring position. -/
def Source.levelTag (x : Source) (q : Nat) : Nat := x.levels.get 0 q

/-- The talk flag as handed for P: off for a disabled source and for a TONE source (R41). -/
def Source.handedFlag (x : Source) : Bool := x.intake && x.det.flag

/-- The smoothed level as handed for P (R41). -/
def Source.handedSmoothed (x : Source) : Nat := if x.intake then x.det.smoothed else 0

/-- GUARDED as handed for P (R41). -/
def Source.handedGuarded (x : Source) : Bool := x.intake && x.det.guarded

/-- The home position that holds a source's samples for P, or none where they are zeros (R22). -/
def Source.homePosition (x : Source) (P : FrameNo) : Option Nat :=
  if x.record.enabled then
    match x.record.kind, x.status with
    | .tone, _ => some (P.toNat % x.record.loop)
    | _, .present => some (P.toNat % 8)
    | _, .concealed => some ((P - 1).toNat % 8)
    | _, .silent => none
  else none

/-- The home position from which the mix takes a source for P: none for a GUARDED source (R22, R60). -/
def Source.heardPosition (x : Source) (P : FrameNo) : Option Nat :=
  if x.handedGuarded then none else x.homePosition P

/-- The floor offset of home position q of source s (R9, R67). -/
def homeOffset (source q : Nat) : Nat := 0x080000 + source * 256 + q * 32

/-- The mic source a turret record names for a handset: handset L is turret × 2, handset R turret × 2 + 1 (R78, R84). -/
def TurretRec.mic (r : TurretRec) (handset : Nat) : Option Nat := if handset % 2 = 0 then r.micL else r.micR

/-- The listen slot a turret record names for a handset. -/
def TurretRec.listenSlot (r : TurretRec) (handset : Nat) : Nat := if handset % 2 = 0 then r.slotL else r.slotR

/-- The turret record names the source as a mic source (R26). -/
def TurretRec.names (r : TurretRec) (source : Nat) : Bool :=
  r.micL == some source || r.micR == some source || r.micSpeaker == some source

/-! ### The mix engine -/

/-- A term or contributor that is not marked for removal. -/
def DynTerm.stays (t : DynTerm) : Bool := t.mark == .keep

def BusEntry.stays (e : BusEntry) : Bool := e.mark == .keep

/-- The dynamic occupancy of a slot: applied dynamic terms less pending removals plus pending additions (R55). -/
def Slot.dynOccupancy (x : Slot) : Nat := (x.dynamic.filter DynTerm.stays).length + x.adds.length

/-- The occupancy of a slot (R55). -/
def Slot.occupancy (x : Slot) : Nat := x.planned.length + x.dynOccupancy

/-- The terms of a recipe in force: planned, then dynamic (R52). -/
def Slot.terms (x : Slot) : List Term := x.planned ++ x.dynamic.map (·.term)

/-- The contributors of a bus after its pending edits (R59). -/
def Bus.after (x : Bus) : List Contributor :=
  (x.list.filter BusEntry.stays).map (·.contrib) ++ x.adds.map (·.contrib)

/-- The occupancy of a bus (R59). -/
def Bus.occupancy (x : Bus) : Nat := x.after.length

/-- The source is on the bus after its pending edits (R59). -/
def Bus.has (x : Bus) (source : Nat) : Bool := x.after.any fun c => c.source == source

/-- The most contributors a bus holds: 5 on a line bus, 24 on a group bus (R47). -/
def busLimit (b : Nat) : Nat := if b < 128 then 5 else 24

/-- The contributors of a bus in force for P (R47). -/
def Bus.inForce (x : Bus) : List Contributor := x.list.map (·.contrib)

/-! ### Lines, groups, channels -/

/-- The outbound state of a line state (R79). -/
def LineStatus.outbound : LineStatus → Signal
  | .outboundWait | .connected | .held => .seize
  | _ => .clear

/-- The channel-free states of R87, but for HELD without a channel. -/
def LineStatus.startsCall : LineStatus → Bool
  | .idle | .inboundRing | .unanswered => true
  | _ => false

/-- A line's appearances: the non-empty entries of bank 0, then of bank 1 (R74, R108). -/
def Line.appearances (x : Line) : List Appearance := x.bank0.filterMap id ++ x.bank1.filterMap id

/-- The most handsets a line joins (R79). -/
def Privacy.limit : Privacy → Nat
  | .oneHandset => 1
  | .sharedLine => 4

/-- The record channel bound to an object (R138, R79, R117). -/
def State.channelOf (s : State) (o : Obj) : Option Nat :=
  (List.range 64).find? fun c => (s.channel c).bound == some o

/-- The lowest-numbered free channel (R139). -/
def State.freeChannel (s : State) : Option Nat := (List.range 64).find? fun c => (s.channel c).bound == none

/-- The member of a turret in a group. -/
def Group.member (x : Group) (t : Nat) : Option Member := x.members.find? fun m => m.turret == t

/-- The turret member count (R117). -/
def Group.memberCount (x : Group) : Nat := x.members.length

/-- The talker count: the talk-capable members (R117). -/
def Group.talkerCount (x : Group) : Nat := (x.members.filter (·.talker)).length

/-! ### Records, notices, interrupts -/

/-- The free space of the record ring: R - 1 - ((p - c) mod R) (R150). -/
def RecordUnit.free (r : RecordUnit) : Nat := r.cap - 1 - (((r.producer : Int) - r.consumer) % r.cap).toNat

/-- The free space of a notice ring: (c - p - 1) mod N (R190). -/
def Ring.free (r : Ring) : Nat := (((r.consumer : Int) - r.producer - 1) % r.cap).toNat

/-- The ring that the class routing gives a class (R189). -/
def FloorRec.route (f : FloorRec) : NoticeClass → Nat
  | .line => f.routeLine
  | .group => f.routeGroup
  | .source => f.routeSource
  | .turret => f.routeTurret
  | .record => f.routeRecord
  | .result => f.routeResult
  | .floor => f.routeFloor

/-- The capacity the floor record gives notice ring k (R180). -/
def FloorRec.noticeCap (f : FloorRec) : Nat → Nat
  | 0 => f.noticeCap0
  | 1 => f.noticeCap1
  | 2 => f.noticeCap2
  | _ => f.noticeCap3

/-- Output INTk: the enable is on and the published index differs from the consumer shadow (R194). -/
def State.int (s : State) (k : Nat) : Bool :=
  s.plan.floor.enables.getLsbD k && (s.noticeRing k).published != (s.noticeRing k).consumer

/-- The path switch decodes the floor region and the part issues bursts: RESET is released and DECODE_EN was sampled
high (R162, R163). -/
def PathSwitch.active (p : PathSwitch) : Bool := !p.resetAsserted && p.decodeEn

/-- The address of a floor offset: BASE is the upper 8 bits (R161). -/
def PathSwitch.address (p : PathSwitch) (offset : Nat) : Nat := p.base.toNat * 2 ^ 24 + offset

/-- Closes are taken: RESET is released and the frame strobe is not lost (R3, R162). -/
def State.clockRuns (s : State) : Bool := !s.path.resetAsserted && !s.src.clockLost

/-- The part's blocks run: RESET is released (log entry 15). -/
def State.running (s : State) : Bool := !s.path.resetAsserted

end Sys2Proof.Machine
end

