-- ==== Sys2Proof/Machine/Port.lean ====
section
/-!
DEFINITION. The two ports of the path switch: the response queues toward the masters (R166, R167), and the bursts on
their way to memory (R168).
-/

namespace Sys2Proof.Machine

/-! ### Response queues -/

/-- The oldest entries of a master's queue whose response is known leave, and their responses are returned, in order
(R166). -/
def State.returnKnown (s : State) (m : Nat) : State :=
  let known := (s.queue m).takeWhile fun e => e.awaiting == 0
  let s := s.setQueue m ((s.queue m).dropWhile fun e => e.awaiting == 0)
  { s with path.returned := s.path.returned ++ known.map fun e => (m, e.response) }

/-- A burst taken from a master appends an entry to its queue (R166); a response known at once may leave at once. -/
def State.appendEntry (s : State) (m : Nat) (e : Entry) : State :=
  (s.setQueue m (s.queue m ++ [e])).returnKnown m

/-- One of the answers an entry awaits has come, with the response it gives where the burst is answered by it (R167). -/
def Entry.answered (id : Nat) (r : Option Response) (e : Entry) : Entry :=
  if e.id = id then { e with awaiting := e.awaiting - 1, response := r.getD e.response } else e

/-- An answer for an entry of a master's queue (R167). -/
def State.answerEntry (s : State) (m id : Nat) (r : Option Response) : State :=
  (s.setQueue m ((s.queue m).map (Entry.answered id r))).returnKnown m

/-- The queue holds its 16 entries: no further burst is taken from the master (R166). -/
def State.queueFull (s : State) (m : Nat) : Bool := 16 ≤ (s.queue m).length

/-- The next number for a burst or an entry is used up. -/
def State.tick (s : State) : State := { s with path.nextId := s.path.nextId + 1 }

/-! ### Bursts on their way to memory -/

/-- The part issues a burst of its own at a floor offset. While RESET is asserted, or decoding is off, no burst is issued
and the block goes on as though memory had answered OK (R162). -/
def State.issue (s : State) (owner : Owner) (offset : Nat) (op : BurstOp) : State :=
  if s.path.active then
    let f : Flight := { id := s.path.nextId, addr := s.path.address offset, op := op, owner := owner }
    { s with path.ownWait := s.path.ownWait ++ [f], path.nextId := s.path.nextId + 1 }
  else s

/-- The number that the part's next own burst takes, or none where it issues none (R162). -/
def State.nextBurst (s : State) : Option Nat := if s.path.active then some s.path.nextId else none

/-- The part issues a full burst write of its own. -/
def State.issueWrite (s : State) (owner : Owner) (offset : Nat) (d : Burst) : State :=
  s.issue owner offset (.write d Enables.full)

/-- The memory side carries the next waiting burst: own and forwarded alternately when both wait, each class in its own
order (R168). DESIGN CHOICE: a burst carried while only its class waited counts in the alternation, so that the other class goes
first when both wait next (log entry 4). -/
def PathSwitch.presentOne (p : PathSwitch) : PathSwitch :=
  match p.ownWait, p.fwdWait with
  | [], [] => p
  | o :: os, [] => { p with ownWait := os, presented := p.presented ++ [o], lastOwn := true }
  | [], f :: fs => { p with fwdWait := fs, presented := p.presented ++ [f], lastOwn := false }
  | o :: os, f :: fs =>
    if p.lastOwn then { p with fwdWait := fs, presented := p.presented ++ [f], lastOwn := false }
    else { p with ownWait := os, presented := p.presented ++ [o], lastOwn := true }

/-- The memory side carries waiting bursts until the one named has been carried; `fuel` bounds their number. -/
def PathSwitch.presentUntil : Nat → Nat → PathSwitch → PathSwitch
  | 0, _, p => p
  | fuel + 1, id, p =>
    if (p.ownWait ++ p.fwdWait).any (fun f => f.id == id) then PathSwitch.presentUntil fuel id p.presentOne else p

/-- A burst of the part's own. -/
def Owner.isOwn : Owner → Bool
  | .master .. => false
  | _ => true

/-- The bursts memory has not answered, those presented first (R168). -/
def PathSwitch.unanswered (p : PathSwitch) : List Flight := p.presented ++ p.ownWait ++ p.fwdWait

/-- The numbers of the unanswered bursts whose owner satisfies a test, oldest first. -/
def State.unanswered (s : State) (p : Owner → Bool) : List Nat :=
  (s.path.unanswered.filter fun f => p f.owner).map (·.id)

/-- The bursts that memory answers when it answers burst `id`: every presented one to the same 32-byte address up to it,
in the order presented (R168, log entry 10). -/
def PathSwitch.answeredWith (p : PathSwitch) (id : Nat) : List Flight :=
  match p.presented.find? (fun f => f.id == id) with
  | none => []
  | some f => (p.presented.takeWhile fun g => g.id != id).filter (fun g => g.addr == f.addr) ++ [f]

/-- The burst is answered and no longer in flight. -/
def PathSwitch.without (p : PathSwitch) (id : Nat) : PathSwitch :=
  { p with presented := p.presented.filter fun f => f.id != id }

/-- What memory holds after it has answered a burst (R168). After ERROR on a write, an outbound signal cell keeps its
previous contents (R77); any other address keeps a free value at the enabled bytes (R154, log entry 6). -/
def memoryAfter (mem : List Host.Cell) (f : Flight) (ok : Bool) : List Host.Cell :=
  match f.op, ok, f.owner with
  | .read, _, _ => mem
  | .write d en, true, _ => writeBurst mem f.addr d en
  | .write _ _, false, .signal _ => mem
  | .write _ en, false, _ => writeBurst mem f.addr (Config.keptOnError f.id) en

/-- An image burst answered ERROR marks its image (R195). -/
def ImageJob.faulty (j : ImageJob) : ImageJob := { j with fault := true }

/-- Memory's answer for a use of the mix: the frame, or the fault that makes the source zero in it (R68, R169). -/
def Job.receive (source id : Nat) (ok : Bool) (d : Burst) (j : Job) : Job :=
  if j.id = id then
    if ok then { j with got := j.got ++ [(source, d)] } else { j with faulted := true }
  else j

end Sys2Proof.Machine
end

