-- ==== Sys2Proof/Machine/Mix.lean ====
section
/-!
DEFINITION. The mix engine: edits of recipes and buses (R55 to R59), the selection of a group bus (R49 to R51), the mix
arithmetic (R60 to R63), and the uses of the mix that read home frames from memory (R65, R67, R70).
-/

namespace Sys2Proof.Machine

/-! ### Edits -/

/-- The mix engine's refusals of an edit (R55, R56, R59). -/
inductive EditRefusal where | termsFull | duplicate | notPresent deriving DecidableEq, Repr

/-- An edit asked of the mix engine (R58). -/
inductive Edit where
  | addTerm (slot : Nat) (term : Term) (origin : Origin)
  | dropTerm (slot : Nat) (term : Term) (origin : Origin)
  | addContrib (bus : Nat) (contrib : Contributor)
  | dropContrib (bus source : Nat)
  deriving DecidableEq, Repr

/-- A term addition: refused TERMS_FULL where the occupancy would exceed 12, else queued last (R55). -/
def Slot.add (x : Slot) (t : Term) (o : Origin) (byRecord : Bool) : Except EditRefusal Slot :=
  if x.occupancy + 1 ≤ 12 then .ok { x with adds := x.adds ++ [{ term := t, origin := o, byRecord := byRecord }] }
  else .error .termsFull

/-- A term removal: it cancels the latest pending addition of the term, else marks the latest applied one, else is
answered NOT_PRESENT (R56). -/
def Slot.drop (x : Slot) (t : Term) (o : Origin) : Except EditRefusal Slot :=
  let queued : TermAdd → Bool := fun a => a.term == t && a.origin == o
  let applied : DynTerm → Bool := fun d => d.term == t && d.origin == o && d.stays
  if x.adds.any queued then .ok { x with adds := dropLastWhere queued x.adds }
  else if x.dynamic.any applied then
    .ok { x with dynamic := changeLast applied (fun d => { d with mark := .remove }) x.dynamic }
  else .error .notPresent

/-- A contributor addition (R59): TERMS_FULL beyond the limit, DUPLICATE for a source on the bus (log entry 13). -/
def Bus.add (b : Nat) (x : Bus) (c : Contributor) (byRecord : Bool) : Except EditRefusal Bus :=
  if busLimit b ≤ x.occupancy then .error .termsFull
  else if x.has c.source then .error .duplicate
  else .ok { x with adds := x.adds ++ [{ contrib := c, byRecord := byRecord }] }

/-- A contributor removal (R59): it cancels a pending addition of the source, else marks the applied contributor. -/
def Bus.drop (x : Bus) (source : Nat) : Except EditRefusal Bus :=
  let queued : BusAdd → Bool := fun a => a.contrib.source == source
  let applied : BusEntry → Bool := fun e => e.contrib.source == source && e.stays
  if x.adds.any queued then .ok { x with adds := dropLastWhere queued x.adds }
  else if x.list.any applied then
    .ok { x with list := changeLast applied (fun e => { e with mark := .remove }) x.list }
  else .error .notPresent

/-- One edit asked of the mix engine (R55 to R59); `byRecord` tells that the application of a line or group record asks it,
which an addition keeps with what it places (R71). -/
def MixEngine.ask (m : MixEngine) (byRecord : Bool) : Edit → Except EditRefusal MixEngine
  | .addTerm u t o =>
    match (m.slots.get {} u).add t o byRecord with
    | .ok x => .ok { m with slots := m.slots.set u x }
    | .error e => .error e
  | .dropTerm u t o =>
    match (m.slots.get {} u).drop t o with
    | .ok x => .ok { m with slots := m.slots.set u x }
    | .error e => .error e
  | .addContrib b c =>
    match Bus.add b (m.buses.get {} b) c byRecord with
    | .ok x => .ok { m with buses := m.buses.set b x }
    | .error e => .error e
  | .dropContrib b src =>
    match (m.buses.get {} b).drop src with
    | .ok x => .ok { m with buses := m.buses.set b x }
    | .error e => .error e

/-- A batch of edits, taken whole: each checked in order on the effect of the earlier ones, and all refused together with
the answer of the first that fails (R58). -/
def MixEngine.batch (byRecord : Bool) : List Edit → MixEngine → Except EditRefusal MixEngine
  | [], m => .ok m
  | e :: es, m =>
    match m.ask byRecord e with
    | .ok m => MixEngine.batch byRecord es m
    | .error r => .error r

/-- Removals asked one by one: one that is answered NOT_PRESENT changes nothing, and the others stand. -/
def MixEngine.askEach : List Edit → MixEngine → MixEngine
  | [], m => m
  | e :: es, m =>
    match m.ask false e with
    | .ok m => MixEngine.askEach es m
    | .error _ => MixEngine.askEach es m

/-- Removals asked of the mix engine, which accepts every removal of what is present (R75, R92, R115, R124). -/
def State.askEach (s : State) (es : List Edit) : State := { s with mix := s.mix.askEach es }

/-- A pending addition as the dynamic term it becomes. -/
def TermAdd.applied (a : TermAdd) : DynTerm := { term := a.term, origin := a.origin, byRecord := a.byRecord }

/-- A pending addition as the contributor it becomes. -/
def BusAdd.applied (a : BusAdd) : BusEntry := { contrib := a.contrib, byRecord := a.byRecord }

/-- A slot's pending edits applied: first every removal, then every addition in order (R57). -/
def Slot.applyEdits (x : Slot) : Slot :=
  { x with dynamic := x.dynamic.filter DynTerm.stays ++ x.adds.map TermAdd.applied, adds := [] }

/-- A bus's pending edits applied (R59). -/
def Bus.applyEdits (x : Bus) : Bus :=
  { x with list := x.list.filter BusEntry.stays ++ x.adds.map BusAdd.applied, adds := [] }

/-- Every pending edit applied, at a close (R57, R59). -/
def MixEngine.applyEdits (m : MixEngine) : MixEngine :=
  { m with slots := m.slots.map fun _ x => x.applyEdits, buses := m.buses.map fun _ x => x.applyEdits }

/-- A dynamic term that stays over a floor restart: the application of a line or group record placed it, so that it is the
outbound term of an enabled line or a feed-out term of an enabled group, and none has asked its removal (R71). Only a record asks
that: a leave removes what its join placed, and the source that a join's term excludes is not the record's, since a bus takes no
source twice (R59, R84, R118). -/
def DynTerm.survives (t : DynTerm) : Bool := t.byRecord && t.stays

/-- A contributor that stays over a floor restart: the far source of an enabled line, or a feed of an enabled group, that the
application of a record placed and none has asked to remove (R71). A join's contributor goes, also where a record adds its
source anew at that close. Only a record asks the removal of a record's contributor, since a bus takes no source twice (R59). -/
def BusEntry.survives (e : BusEntry) : Bool := e.byRecord && e.stays

/-- A slot's recipe after a floor restart: the edits asked by the application of a line or group record are applied, the other
pending edits discarded, and every dynamic term but those that records placed removed; the planned terms stay (R71). -/
def Slot.restart (x : Slot) : Slot :=
  { x with
    dynamic := x.dynamic.filter DynTerm.survives ++ (x.adds.filter (·.byRecord)).map TermAdd.applied
    adds := [] }

/-- A bus after a floor restart, in the same way (R71). -/
def Bus.restart (x : Bus) : Bus :=
  { x with
    list := x.list.filter BusEntry.survives ++ (x.adds.filter (·.byRecord)).map BusAdd.applied
    adds := [] }

/-- The mix engine after a floor restart, the selection cache empty (R71, R72). -/
def MixEngine.restart (m : MixEngine) : MixEngine :=
  { m with slots := m.slots.map fun _ x => x.restart, buses := m.buses.map fun _ x => x.restart, cache := {} }

/-! ### Selection -/

/-- A contributor of a group bus is permitted for P: its source is not GUARDED, and an OPEN one's talk flag is on, a
KEYED one's key is latched (R49). -/
def permitted (s : State) (g : Nat) (c : Contributor) : Bool :=
  !(s.source c.source).handedGuarded &&
    match c.kind with
    | .opened => (s.source c.source).handedFlag
    | .keyed => (s.groupAt g).latched.contains c.source

/-- The ranking of R50: by smoothed level, highest first, then by source number, lowest first. -/
def ranksBefore (s : State) (a b : Contributor) : Bool :=
  let la := (s.source a.source).handedSmoothed
  let lb := (s.source b.source).handedSmoothed
  lb < la || (la == lb && a.source < b.source)

/-- A candidate put in its rank. -/
def rankIn (s : State) (c : Contributor) : List Contributor → List Contributor
  | [] => [c]
  | d :: ds => if ranksBefore s c d then c :: d :: ds else d :: rankIn s c ds

/-- The candidates in ranking order (R50). -/
def ranked (s : State) (l : List Contributor) : List Contributor := l.foldr (rankIn s) []

/-- The selection of a group bus for P: the first K candidates (R50). -/
def selection (s : State) (g : Nat) : List Contributor :=
  (ranked s ((s.bus (128 + g)).inForce.filter (permitted s g))).take (s.groupAt g).record.cap

/-- The counted contributors of a bus for P: all of a line bus, the selection of a group bus (R48, R50, R61). -/
def counted (s : State) (b : Nat) : List Contributor :=
  if b < 128 then (s.bus b).inForce else selection s (b - 128)

/-- A counted contributor as the arithmetic takes it: its source and gain. -/
def countedPairs (s : State) (b : Nat) : List (Nat × Nat) := (counted s b).map fun c => (c.source, c.gain)

/-- The need of a group bus's selection leaves it in the selection cache, tagged with P (R51). The cache holds what a
recomputation gives, so the value used is the selection itself. -/
def State.cacheSelection (s : State) (b : Nat) : State :=
  if b < 128 then s
  else { s with mix.cache := s.mix.cache.set (b - 128) (some (s.P, (selection s (b - 128)).map (·.source))) }

/-! ### The mix arithmetic -/

/-- Rounding to the nearest multiple of 1/16384, halves upward: floor((v + 8192) / 16384) (R63). -/
def round14 (v : Int) : Int := (v + 8192) / 16384

/-- Saturation into -32768 to 32767 (R63). -/
def sat16 (v : Int) : Int := if 32767 < v then 32767 else if v < -32768 then -32768 else v

/-- The source value x_s at sample i: that of the frame memory returned, and 0 where none was read or the read faulted
(R60). -/
def sourceValue (got : List (Nat × Burst)) (source i : Nat) : Int :=
  match lookup got source with
  | some d => sample d i
  | none => 0

/-- The exact sum of the products of the counted contributors (R61). -/
def busSum (got : List (Nat × Burst)) (l : List (Nat × Nat)) (i : Nat) : Int :=
  (l.map fun c => (c.2 : Int) * sourceValue got c.1 i).sum

/-- The value of a bus as a BUS term takes it: the excluded product, where the source is counted, leaves the exact sum
before rounding (R61). -/
def busValue (got : List (Nat × Burst)) (l : List (Nat × Nat)) (exclude : Option Nat) (i : Nat) : Int :=
  let excluded : Int :=
    match exclude with
    | none => 0
    | some e =>
      match l.find? (fun c => c.1 == e) with
      | some c => (c.2 : Int) * sourceValue got c.1 i
      | none => 0
  round14 (busSum got l i - excluded)

/-- What a term adds to the accumulator at sample i (R62). -/
def termValue (got : List (Nat × Burst)) (i : Nat) : MixTerm → Int
  | .source g src => g * sourceValue got src i
  | .bus g l e => g * busValue got l e i
  | .tone g (some t) => g * sourceValue got t i
  | .tone _ none => 0

/-- Output sample i of a slot: accumulate, round, apply the master volume, round, saturate (R62, R63). -/
def mixSample (got : List (Nat × Burst)) (volume : Nat) (terms : List MixTerm) (i : Nat) : Int :=
  let A : Int := (terms.map (termValue got i)).sum
  sat16 (round14 (round14 A * volume))

/-- The 16 samples a use of the mix gives, from the frames memory returned for it (R60 to R63, R70). -/
def Job.value (j : Job) : Burst :=
  match j.work with
  | .zeros => 0
  | .frame src => (lookup j.got src).getD 0
  | .slotMix v ts => packSamples ((List.range 16).map (mixSample j.got v ts))
  | .busValue l => packSamples ((List.range 16).map fun i => sat16 (round14 (busSum j.got l i)))

/-! ### What a use of the mix fixes and reads -/

/-- A term with the values in force for P that it uses (R65). -/
def fixTerm (s : State) (t : Term) : MixTerm :=
  match t.kind with
  | .source src => .source t.gain src
  | .bus b e => .bus t.gain (countedPairs s b) e
  | .cadence c => .tone t.gain (if (s.player c).gate then (s.player c).tone else none)

/-- The mix of a slot for P: nothing to compute for a disabled recipe or one with no terms (R63). -/
def slotWork (s : State) (u : Nat) : Calc :=
  if (s.slot u).enabled ∧ (s.slot u).terms ≠ [] then .slotMix (s.slot u).volume ((s.slot u).terms.map (fixTerm s))
  else .zeros

/-- The sources whose frames a term needs (R67). -/
def MixTerm.sources : MixTerm → List Nat
  | .source _ src => [src]
  | .bus _ l _ => l.map (·.1)
  | .tone _ (some t) => [t]
  | .tone _ none => []

/-- The sources whose frames a use needs (R67). -/
def Calc.sources : Calc → List Nat
  | .zeros => []
  | .frame src => [src]
  | .slotMix _ ts => ts.flatMap MixTerm.sources
  | .busValue l => l.map (·.1)

/-- The home positions a use reads: one read per needed source that R60 does not make 0, however many terms need it
(R67). DESIGN CHOICE: in the order in which the terms name their sources, a source that several name at its last naming (log entry
38). -/
def readsOf (s : State) (w : Calc) : List (Nat × Nat) :=
  w.sources.dedup.filterMap fun src => ((s.source src).heardPosition s.P).map fun q => (src, q)

/-- The reads of one use, issued at once (R67). -/
def State.issueReads (s : State) (job : Nat) : List (Nat × Nat) → State
  | [] => s
  | (src, q) :: rest => (s.issue (.jobRead src job) (homeOffset src q) .read).issueReads job rest

/-- A use of the mix begins: it is numbered and its reads are issued (R65, R70). -/
def State.startJob (s : State) (w : Calc) : State × Job :=
  let job : Job := { id := s.path.nextId, work := w }
  (s.tick.issueReads job.id (readsOf s w), job)

/-- The selections that a slot's BUS terms need are left in the cache (R51). -/
def State.cacheTerms (s : State) : List Term → State
  | [] => s
  | t :: rest =>
    match t.kind with
    | .bus b _ => (s.cacheSelection b).cacheTerms rest
    | _ => s.cacheTerms rest

/-- The selections that the mix of a slot needs are left in the cache (R51): none for a disabled recipe. -/
def State.cacheSlot (s : State) (u : Nat) : State := if (s.slot u).enabled then s.cacheTerms (s.slot u).terms else s

end Sys2Proof.Machine
end

