-- ==== Sys2Proof/Machine/NoticeUnit.lean ====
section
/-!
DEFINITION. The notice unit: handing a notice on to its ring (R188 to R191), faults on the part's own traffic (R170), and
the record channel pool's grants (R138 to R141).
-/

namespace Sys2Proof.Machine

/-- Floor offset of entry i of notice ring k (R190). -/
def noticeOffset (k i : Nat) : Nat := 0x0C0000 + k * 0x8000 + i * 32

/-- Floor offset of the progress cell of notice ring k (the table of 10). -/
def noticeProgressOffset (k : Nat) : Nat := 0x0B0000 + k * 32

/-- A notice is written to the entry at the ring's producer index, which moves on (R190); its burst is one that the progress cell
will wait for (R192). -/
def State.writeNotice (s : State) (k : Nat) (n : Notice) : State :=
  let r := s.noticeRing k
  (s.issueWrite (.notice k r.producer) (noticeOffset k r.producer) (encodeNotice n)).setRing k
    { r with producer := (r.producer + 1) % r.cap, unpublished := r.unpublished ++ [s.nextBurst] }

/-- A notice is discarded: the mark is set and the discard count grows, saturating (R190, R191). -/
def State.discardNotice (s : State) (k : Nat) : State :=
  let r := s.noticeRing k
  s.setRing k { r with mark := true, discards := min 65535 (r.discards + 1) }

/-- The RESYNC of a ring: the ring as object, F, and the discard count in the place of the tag (R191). -/
def resyncOf (s : State) (k : Nat) : Notice :=
  { cls := .floor, kind := .resync, frame := s.src.F, object := some k, tag := (s.noticeRing k).discards }

/-- The mark is cleared and the discard count is 0 (R191). -/
def State.clearMark (s : State) (k : Nat) : State := s.setRing k { s.noticeRing k with mark := false, discards := 0 }

/-- A notice handed on for ring k: written, written after a RESYNC, or discarded (R190, R191). -/
def State.handOnTo (s : State) (k : Nat) (n : Notice) : State :=
  let r := s.noticeRing k
  if r.mark then
    if 2 ≤ r.free then ((s.writeNotice k (resyncOf s k)).clearMark k).writeNotice k n else s.discardNotice k
  else if 1 ≤ r.free then s.writeNotice k n
  else s.discardNotice k

/-- A notice handed on goes to the ring of its class (R189). -/
def State.handOn (s : State) (n : Notice) : State := s.handOnTo (s.plan.floor.route n.cls) n

/-- Notices handed on in order (R188). -/
def State.handOnAll (s : State) : List Notice → State
  | [] => s
  | n :: rest => (s.handOn n).handOnAll rest

/-! ### Results -/

/-- A REQUEST_RESULT: the cell as object, the request kind's code as old state, the tag and the code (R183, R199). -/
def resultNotice (s : State) (r : ReplyTo) (kind : Nat) (c : Code) : Notice :=
  { cls := .result, kind := .requestResult, code := c, frame := s.src.F, object := some r.cell, old := some kind,
    tag := r.tag }

/-- A request's result, in its reply ring (R183, R189). -/
def State.result (s : State) (r : ReplyTo) (kind : RequestKind) (c : Code) : State :=
  s.handOnTo r.ring (resultNotice s r kind.code c)

/-- The DONE results of requests served together, in the order they were taken (R183). -/
def State.results (s : State) (kind : RequestKind) : List ReplyTo → State
  | [] => s
  | r :: rest => (s.result r kind .done).results kind rest

/-- A PLAN_RESULT: the record number as object, the record kind's code or none as old state, the tag, the code (R179). -/
def planNotice (s : State) (record tag : Nat) (c : Code) : Notice :=
  { cls := .result, kind := .planResult, code := c, frame := s.src.F, object := some record,
    old := (recordId record).map RecordId.kindCode, tag := tag }

/-! ### Faults on the part's own traffic -/

/-- The burst kind that a MEMORY_FAULT names as its cause (R170). -/
def Owner.faultCause : Owner → Cause
  | .homeWrite .. => .homeWrite
  | .homeRead .. => .homeRead
  | .jobRead .. => .homeRead
  | .signal _ => .signalWrite
  | .notice .. => .noticeWrite
  | .noticeProgress _ => .progressWrite
  | .levelImage => .imageWrite
  | .stateImage => .imageWrite
  | .abandonedImage => .imageWrite
  | .record .. => .recordWrite
  | .recordProgress => .progressWrite
  | .master .. => .fault

/-- The object that a MEMORY_FAULT names (R170). -/
def Owner.faultObject : Owner → Option Nat
  | .homeWrite source _ _ => some source
  | .homeRead source _ _ _ => some source
  | .jobRead source _ => some source
  | .signal line => some line
  | .notice ring _ => some ring
  | .noticeProgress ring => some ring
  | .record channel _ => some channel
  | .levelImage => none
  | .stateImage => none
  | .abandonedImage => none
  | .recordProgress => none
  | .master .. => none

/-- Memory answered one of the part's own bursts ERROR: memory_faults grows, and the first fault after a close gives a
MEMORY_FAULT notice (R170). While RESET is asserted, or decoding is off, no fault is counted (R162). -/
def State.countFault (s : State) (o : Owner) : State :=
  if s.path.active then
    let marked := s.path.faultMark
    let s : State := { s with path.memoryFaults := s.path.memoryFaults + 1, path.faultMark := true }
    if marked then s
    else s.handOn { cls := .floor, kind := .memoryFault, cause := some o.faultCause, frame := s.src.F,
                    object := o.faultObject }
  else s

/-! ### The channel pool -/

/-- A channel request (R139): the object's own channel, a refusal, or the lowest free channel, now bound. -/
def State.requestChannel (s : State) (o : Obj) (required : Bool) : Except Code State :=
  match s.channelOf o with
  | some _ => .ok s
  | none =>
    if required ∧ s.recorder.status = .outage then .error .recorderDown
    else
      match s.freeChannel with
      | none => .error .noRecordChannel
      | some c => .ok (s.setChannel c { bound := some o, dropped := 0 })

/-- A listed record of a channel that is freed: the channel is no longer bound to the object of the listing (R150). -/
def PendingRecord.unbind (c : Nat) (r : PendingRecord) : PendingRecord := if r.channel = c then { r with freed := true } else r

/-- A channel becomes free, and a record listed for it counts nowhere from then on (R140, R150). -/
def State.freeUp (s : State) (c : Nat) : State :=
  { s.setChannel c {} with recorder.records := s.recorder.records.map (PendingRecord.unbind c) }

/-- An idle report: the object's channel, if it has one, becomes free at once (R140). -/
def State.reportIdle (s : State) (o : Obj) : State :=
  match s.channelOf o with
  | some c => s.freeUp c
  | none => s

/-- The CHANNEL_SKIPPED notice of an object that goes on unrecorded (R141). -/
def skippedNotice (s : State) (o : Obj) (turret : Nat) (handset : Option Nat) (c : Code) : Notice :=
  { cls := .record, kind := .channelSkipped, code := c, frame := s.src.F, object := some o.number,
    turret := some turret, handset := handset, old := some o.kindCode }

end Sys2Proof.Machine
end

