-- ==== Sys2Proof/Machine/RingUnit.lean ====
section
/-!
DEFINITION. The ring unit: starting and stopping a line's ring (R105, R108, R109), turrets during the ring (R110), and the
players' steps (R106, R107, R111).
-/

namespace Sys2Proof.Machine

/-- The ringer term of a line (R108). -/
def ringerTerm (n gain : Nat) : Term := { kind := .cadence n, gain := gain }

/-- The RING_SILENT notice of a ringer term refused TERMS_FULL (R108). -/
def ringSilentNotice (s : State) (n t : Nat) (cause : Option Cause) : Notice :=
  { cls := .line, kind := .ringSilent, cause := cause, code := .termsFull, frame := s.src.F, object := some n,
    turret := some t, old := some LineStatus.inboundRing.code, new := some LineStatus.inboundRing.code }

/-- One ringer term asked in the ringer slot of a turret: on the player's list when accepted, else a RING_SILENT (R108). -/
def State.askRinger (s : State) (n t : Nat) (cause : Option Cause) : State :=
  let u := (s.turret t).record.slotRinger
  match s.mix.ask false (.addTerm u (ringerTerm n (s.lineAt n).record.ringGain) .ring) with
  | .ok m =>
    let s : State := { s with mix := m }
    s.setPlayer n { s.player n with terms := (s.player n).terms ++ [(t, u)] }
  | .error _ => s.handOn (ringSilentNotice s n t cause)

/-- Ringer terms asked for turrets, in order, each on its own (R108). -/
def State.askRingers (s : State) (n : Nat) (cause : Option Cause) : List Nat → State
  | [] => s
  | t :: rest => (s.askRinger n t cause).askRingers n cause rest

/-- The turrets at which a line rings: its appearances whose ring flag is on and whose turret is PRESENT (R108). -/
def ringingTurrets (s : State) (n : Nat) : List Nat :=
  ((s.lineAt n).appearances.filter fun a => a.rings && (s.turret a.turret).presence == .present).map (·.turret)

/-- The line enters INBOUND_RING: its player becomes STARTING with the cause of the entry, and its ringer terms are asked
(R105, R108). DESIGN CHOICE: the frames-left count, which STARTING does not use, keeps its last value (R104; log entry 29). -/
def State.startRing (s : State) (n : Nat) (cause : Cause) : State :=
  let s := s.setPlayer n { s.player n with phase := .starting, index := 0, entry := some cause }
  s.askRingers n (some cause) (ringingTurrets s n)

/-- The removal of the ringer terms on a list (R109). -/
def ringerDrops (n gain : Nat) (l : List (Nat × Nat)) : List Edit :=
  l.map fun e => .dropTerm e.2 (ringerTerm n gain) .ring

/-- The line leaves INBOUND_RING: its player becomes STOPPED, and every term on its list is asked to be removed (R109). DESIGN CHOICE:
the step index and the frames-left count, which STOPPED does not use, keep their last values (R104; log entry 29). -/
def State.stopRing (s : State) (n : Nat) : State :=
  let p := s.player n
  (s.askEach (ringerDrops n (s.lineAt n).record.ringGain p.terms)).setPlayer n { p with phase := .stopped, terms := [] }

/-- A turret's terms are removed from one player's list, each asked in the slot where it was placed (R110). -/
def State.dropRinger (s : State) (t n : Nat) : State :=
  let p := s.player n
  (s.askEach (ringerDrops n (s.lineAt n).record.ringGain (p.terms.filter fun e => e.1 == t))).setPlayer n
    { p with terms := p.terms.filter fun e => e.1 != t }

/-- A turret's terms are removed from the lists of the players whose list names it (R110). -/
def State.dropRingers (s : State) (t : Nat) : List Nat → State
  | [] => s
  | n :: rest =>
    if (s.player n).terms.any (fun e => e.1 == t) then (s.dropRinger t n).dropRingers t rest else s.dropRingers t rest

/-- A turret has become PRESENT: on every line in INBOUND_RING with an appearance of it whose ring flag is on, its ringer
term is asked, unless the player's list already names it (R110). DESIGN CHOICE: the lines in the order of the list, ascending
(log entry 35). -/
def State.returnRingers (s : State) (t : Nat) : List Nat → State
  | [] => s
  | n :: rest =>
    let l := s.lineAt n
    if l.record.enabled ∧ l.status = .inboundRing ∧ l.appearances.any (fun a => a.turret == t && a.rings)
        ∧ ¬ (s.player n).terms.any (fun e => e.1 == t) then
      (s.askRinger n t (s.player n).entry).returnRingers t rest
    else s.returnRingers t rest

/-! ### Stepping -/

/-- The player takes step i of its program, with the step's duration (R106). DESIGN CHOICE: where the program has no such step the
player is STARTING, and its frames-left count, not used there, keeps its last value (R104; log entry 29). -/
def Player.takeStep (p : Player) (prog : Program) (i : Nat) : Player :=
  match prog.steps[i]? with
  | some st => { p with phase := .stepping, index := i, left := st.duration }
  | none => { p with phase := .starting, index := 0 }

/-- A STEPPING player whose frames-left count is 0 leaves its step: the next one, or the end mode decides (R106). DESIGN CHOICE: in
HOLDING, which does not use it, the frames-left count stays 0 (R104; log entry 29). -/
def Player.endStep (p : Player) (prog : Program) : Player :=
  if p.phase = .stepping ∧ p.left = 0 then
    if p.index + 1 < prog.steps.length then p.takeStep prog (p.index + 1)
    else
      match prog.ending with
      | .repeats => p.takeStep prog 0
      | .holdLast => { p with phase := .holding }
  else p

/-- One close's stepping of a running player (R106). -/
def Player.step (p : Player) (prog : Program) : Player :=
  match p.phase with
  | .stopped => p
  | .holding => p
  | .starting => p.takeStep prog 0
  | .stepping => ({ p with left := p.left - 1 } : Player).endStep prog

/-- The gate and tone source in force for the P that a close begins (R107). -/
def Player.form (p : Player) (prog : Program) : Player :=
  match p.phase, prog.steps[p.index]? with
  | .stepping, some st => { p with gate := st.gate, tone := st.tone }
  | .holding, some st => { p with gate := st.gate, tone := st.tone }
  | _, _ => { p with gate := false, tone := none }

/-- A program record applied adjusts a running player before it steps at that close (R111). A restart is left to the
step: a STARTING player takes step 0 there and is not counted down. DESIGN CHOICE: a frames-left count not used in the new phase keeps
its last value (R104; log entry 29). -/
def Player.adjust (p : Player) (prog : Program) : Player :=
  match p.phase with
  | .stepping =>
    match prog.steps[p.index]? with
    | some st => { p with left := min p.left st.duration }
    | none => { p with phase := .starting, index := 0 }
  | .holding =>
    match prog.steps[p.index]? with
    | some _ => p
    | none => { p with phase := .starting, index := 0 }
  | _ => p

/-- A program record is applied: the program takes its contents, and every player whose line names it is adjusted (R103,
R111). -/
def State.applyProgram (s : State) (c : Nat) (prog : Program) : State :=
  { s.setProgram c prog with
    ring.players := s.ring.players.map fun n p => if (s.lineAt n).record.program = c then p.adjust prog else p }

/-- The players whose phase is not STOPPED, of the 128 (R104). -/
def runningPlayers (s : State) : List Nat := (List.range 128).filter fun n => (s.player n).phase != .stopped

/-- Every player's work at a close: those that were running when the close began step (R106), and all form their values
for P (R107). -/
def State.stepPlayers (s : State) (running : List Nat) : State :=
  { s with
    ring.players := s.ring.players.map fun n p =>
      let prog := s.program (s.lineAt n).record.program
      (if running.contains n then p.step prog else p).form prog }

end Sys2Proof.Machine
end

