-- ==== Sys2Proof/Machine/LineUnit.lean ====
section
/-!
DEFINITION. The line controller: line states and their changes (R79 to R85, R96), far-end signals (R76, R81 to R83), the
line requests (R86 to R95), turret loss (R97), line records (R75), and the work of a close (R101).
-/

namespace Sys2Proof.Machine

/-! ### Changes of line state -/

/-- Floor offset of the outbound cell of line n (R76). -/
def outboundOffset (n : Nat) : Nat := 0x098000 + n * 64 + 32

/-- The outbound cell of line n is written with its outbound state and F (R77). -/
def State.writeOutbound (s : State) (n : Nat) : State :=
  s.issueWrite (.signal n) (outboundOffset n) (encodeOutbound (s.lineAt n).status.outbound s.src.F)

/-- A LINE_STATE notice (R80). -/
def lineNotice (s : State) (n : Nat) (old new : LineStatus) (cause : Cause) (handset : Option Nat) (c : Code) : Notice :=
  { cls := .line, kind := .lineState, cause := some cause, code := c, frame := s.src.F, object := some n,
    turret := handset.map (· / 2), handset := handset, old := some old.code, new := some new.code }

/-- The states on whose entry a line's record channel is freed (R98). -/
def LineStatus.freesChannel : LineStatus → Bool
  | .idle | .inboundRing | .outOfService => true
  | _ => false

/-- A change of line state: the counts that start with the new state, the outbound cell when the outbound state changes
(R77), the record channel freed on entry to IDLE, INBOUND_RING or OUT_OF_SERVICE (R98), the ring stopped or started
(R96), and the LINE_STATE notice, which the RING_SILENT notices of a ring's start follow (R80, R108). DESIGN CHOICE: the burst of
the outbound cell is issued before that of the notice (R77, R168; log entry 40). -/
def State.moveLine (s : State) (n : Nat) (new : LineStatus) (cause : Cause) (handset : Option Nat) (c : Code) : State :=
  let l := s.lineAt n
  let old := l.status
  let s := s.setLine n { l with
    status := new
    ringRun := if new = .inboundRing then 0 else l.ringRun
    releaseTimer := if new = .releasing then 0 else l.releaseTimer }
  let s := if old.outbound = new.outbound then s else s.writeOutbound n
  let s := if new.freesChannel then s.reportIdle (.line n) else s
  let s := if old = .inboundRing ∧ new ≠ .inboundRing then s.stopRing n else s
  let s := s.handOn (lineNotice s n old new cause handset c)
  if new = .inboundRing then s.startRing n cause else s

/-! ### Edits of lines -/

/-- The term a handset or the outbound slot hears of a line: its bus at unity, less the excluded source (R75, R84). -/
def lineTerm (n : Nat) (exclude : Option Nat) : Term := { kind := .bus n exclude, gain := 16384 }

/-- The far source as a contributor of the line bus (R75). -/
def farContrib (r : LineRec) : Contributor := { source := r.far, gain := r.rxGain, kind := .opened }

/-- The hold term of a line (R95). -/
def holdTerm (hold : Nat) : Term := { kind := .source hold, gain := 16384 }

/-- The additions of a join (R84): the mic contributor, where the turret record names a mic, and the handset's term. -/
def joinEdits (s : State) (n h : Nat) : List Edit :=
  let r := (s.turret (h / 2)).record
  (match r.mic h with
   | some m => [.addContrib n { source := m, gain := 16384, kind := .opened }]
   | none => [])
    ++ [.addTerm (r.listenSlot h) (lineTerm n (r.mic h)) .line]

/-- The removals of a leave: what the join placed (R85). -/
def leaveEdits (s : State) (n h : Nat) : List Edit :=
  let r := (s.turret (h / 2)).record
  (match r.mic h with
   | some m => [.dropContrib n m]
   | none => [])
    ++ [.dropTerm (r.listenSlot h) (lineTerm n (r.mic h)) .line]

/-- The removal of the hold term where one was placed (R95). -/
def holdDrops (l : Line) : List Edit :=
  match l.holdPlaced, l.record.hold with
  | true, some h => [.dropTerm l.record.out (holdTerm h) .line]
  | _, _ => []

/-- The addition of the hold term where the record names a hold source (R95). -/
def holdAdds (l : Line) : List Edit :=
  match l.record.hold with
  | some h => [.addTerm l.record.out (holdTerm h) .line]
  | none => []

/-- The hold term is removed if placed, and hold term placed becomes no (R82, R83, R95). -/
def State.dropHold (s : State) (n : Nat) : State :=
  let l := s.lineAt n
  (s.askEach (holdDrops l)).setLine n { l with holdPlaced := false }

/-! ### Leaving a line -/

/-- A CONNECTED line left by its last handset is parked in HELD: the hold term is asked, and a refusal for room leaves the
line HELD without one, with code TERMS_FULL in its notice (R90, R95, R97). -/
def State.parkLine (s : State) (n : Nat) (cause : Cause) (handset : Option Nat) : State :=
  let l := s.lineAt n
  match l.record.hold with
  | none => s.moveLine n .held cause handset .done
  | some _ =>
    match s.mix.batch false (holdAdds l) with
    | .ok m =>
      (({ s with mix := m } : State).setLine n { l with holdPlaced := true }).moveLine n .held cause handset .done
    | .error _ => s.moveLine n .held cause handset .termsFull

/-- A handset is off the joined list of line n (its edits and occupancy apart): where others remain the line keeps its
state with a notice, else the line moves by its state and the reason for leaving (R85, R90, R92, R94, R97). -/
def State.handsetGone (s : State) (n h : Nat) (cause : Cause) : State :=
  let l := s.lineAt n
  let s := s.setLine n { l with joined := l.joined.filter (· != h) }
  if l.joined.filter (· != h) ≠ [] then s.handOn (lineNotice s n l.status l.status cause (some h) .done)
  else
    match l.status, cause with
    | .connected, .release => s.moveLine n .releasing cause (some h) .done
    | .connected, _ => s.parkLine n cause (some h)
    | .outboundWait, _ => s.moveLine n .idle cause (some h) .done
    | .farCleared, _ => s.moveLine n .idle cause (some h) .done
    | st, _ => s.handOn (lineNotice s n st st cause (some h) .done)

/-- A handset leaves line n altogether: its edits are asked, its occupancy becomes NONE, and the line moves (R85). -/
def State.leaveLine (s : State) (n h : Nat) (cause : Cause) : State :=
  ((s.askEach (leaveEdits s n h)).setOccupancy h .vacant).handsetGone n h cause

/-! ### Far-end signals -/

/-- A far-end FAULT sends every joined handset away, each with its own notice of equal states (R80, R83). DESIGN CHOICE: the
handsets in the order in which they joined; these notices are issued before the outbound cell's CLEAR and the notice of the change of
state, which `moveLine` issues after them, where R83 does not order the cell and the handsets' notices; and each notice names the handset that leaves and its turret, where R80 says both "the
turret and handset concerned" and "none for a far-end signal" (log entry 40). -/
def State.faultHandsets (s : State) (n : Nat) : List Nat → State
  | [] => s
  | h :: rest =>
    let s := (s.askEach (leaveEdits s n h)).setOccupancy h .vacant
    let l := s.lineAt n
    let s := s.setLine n { l with joined := l.joined.filter (· != h) }
    (s.handOn (lineNotice s n l.status l.status .farFault (some h) .done)).faultHandsets n rest

/-- The inbound code of an enabled line has become SEIZE, CLEAR or FAULT: the line moves by its state (R81, R82, R83). DESIGN CHOICE:
at a FAULT the LINE_STATE notices of the leaving handsets are issued before the burst of the outbound cell's CLEAR (R80, R83, R168;
log entry 40). -/
def State.farSignal (s : State) (n : Nat) (code : Signal) : State :=
  match code, (s.lineAt n).status with
  | .seize, .idle => s.moveLine n .inboundRing .farSeize none .done
  | .seize, .outOfService => s.moveLine n .inboundRing .farSeize none .done
  | .seize, .outboundWait => s.moveLine n .connected .farSeize none .done
  | .seize, .farCleared => s.moveLine n .connected .farSeize none .done
  | .seize, _ => s
  | .clear, .inboundRing => s.moveLine n .idle .farClear none .done
  | .clear, .unanswered => s.moveLine n .idle .farClear none .done
  | .clear, .connected => s.moveLine n .farCleared .farClear none .done
  | .clear, .held => (s.dropHold n).moveLine n .idle .farClear none .done
  | .clear, .releasing => s.moveLine n .idle .farClear none .done
  | .clear, .outOfService => s.moveLine n .idle .farClear none .done
  | .clear, _ => s
  | .fault, .outOfService => s
  | .fault, _ =>
    ((s.faultHandsets n (s.lineAt n).joined).dropHold n).moveLine n .outOfService .farFault none .done

/-- The line controller takes a write of an inbound signal cell (R76): a code equal to the held one has no effect; another
replaces it and, on an enabled line, is a far-end signal event. Any code that is none of the three is taken as FAULT. -/
def State.takeInbound (s : State) (n : Nat) (data : Burst) : State :=
  let code := (Signal.list[field data 0 1]?).getD .fault
  if (s.lineAt n).inbound = code then s
  else
    let s := s.setLine n { s.lineAt n with inbound := code }
    if (s.lineAt n).record.enabled then s.farSignal n code else s

/-! ### LINE_KEY -/

/-- The handset number of a turret and a handset byte, 0 for L and 1 for R (R78). -/
def handsetOf (turret handset : Nat) : Nat := turret * 2 + handset

/-- A line request's fields name a turret, a handset and an enabled line (R86, R92, R94). -/
def lineFieldsOk (s : State) (turret handset n : Nat) : Bool :=
  turret ≤ 63 && handset ≤ 1 && n ≤ 127 && (s.lineAt n).record.enabled

/-- The line that an occupancy names. -/
def Occupancy.line? : Occupancy → Option Nat
  | .line m => some m
  | _ => none

/-- Check 8 applies to a line in a channel-free state: IDLE, INBOUND_RING, UNANSWERED, or HELD without a channel (R87). -/
def channelFree (s : State) (n : Nat) : Bool :=
  (s.lineAt n).status.startsCall || ((s.lineAt n).status == .held && (s.channelOf (.line n)).isNone)

/-- Check 6 of a LINE_KEY: whether a join is allowed in the line's state (R86). -/
def joinAllowed (l : Line) : Option Code :=
  match l.status with
  | .idle | .inboundRing | .unanswered | .held => none
  | .outboundWait | .connected | .farCleared =>
    if l.record.privacy = .sharedLine ∧ l.joined.length < 4 then none else some .busy
  | .releasing => some .state
  | .outOfService => some .outOfService

/-- Check 7: the handset's term fits its slot, less the term that its old line's leave takes from that slot, and its mic
fits the bus (R87). DESIGN CHOICE: where the slot has no room, or the bus is at its limit, and the mic is already on the bus as well,
the code is TERMS_FULL: R86 and R87 do not say which of the two codes wins (log entry 13). -/
def keyTermsFit (s : State) (n h : Nat) : Option Code :=
  let r := (s.turret (h / 2)).record
  let freed := if (s.occupancy h).line?.isSome then 1 else 0
  if 12 < (s.slot (r.listenSlot h)).occupancy - freed + 1 then some .termsFull
  else
    match r.mic h with
    | none => none
    | some m => if 5 ≤ (s.bus n).occupancy then some .termsFull else if (s.bus n).has m then some .badRequest else none

/-- Check 8: the record condition of a REQUIRED line in a channel-free state (R87). -/
def keyRecordOk (s : State) (n : Nat) : Option Code :=
  if channelFree s n ∧ (s.lineAt n).record.mode = .required then
    if s.recorder.status = .outage then some .recorderDown
    else if s.freeChannel.isNone then some .noRecordChannel
    else none
  else none

/-- The first code of a list of checks, in order. -/
def firstRefusal : List (Option Code) → Option Code
  | [] => none
  | some c :: _ => some c
  | none :: rest => firstRefusal rest

/-- Checks 4 to 8 of a LINE_KEY, in order (R86). -/
def keyRefusal (s : State) (n h : Nat) : Option Code :=
  firstRefusal
    [match s.occupancy h with
     | .group _ => some .handsetBusy
     | _ => none,
     if (s.lineAt n).status = .outOfService then some .outOfService else none,
     joinAllowed (s.lineAt n),
     keyTermsFit s n h,
     keyRecordOk s n]

/-- The code of a batch that the mix engine refuses: TERMS_FULL, or BAD_REQUEST for DUPLICATE (R88, R122). -/
def EditRefusal.requestCode : EditRefusal → Code
  | .duplicate => .badRequest
  | _ => .termsFull

/-- Step 1 of the commit: the channel. The answer is the state, and the refusal of a WANTED line that goes on without one
(R88, R139, R141). -/
def State.keyChannel (s : State) (n : Nat) : Except Code (State × Option Code) :=
  if channelFree s n then
    match (s.lineAt n).record.mode with
    | .never => .ok (s, none)
    | .required =>
      match s.requestChannel (.line n) true with
      | .ok s => .ok (s, none)
      | .error c => .error c
    | .wanted =>
      match s.requestChannel (.line n) false with
      | .ok s => .ok (s, none)
      | .error c => .ok (s, some c)
  else .ok (s, none)

/-- Step 2 of the commit: the one batch of the key's removals and additions (R88). -/
def keyEdits (s : State) (n h : Nat) : List Edit :=
  (match (s.occupancy h).line? with
   | some m => leaveEdits s m h
   | none => [])
    ++ (if (s.lineAt n).status = .held then holdDrops (s.lineAt n) else []) ++ joinEdits s n h

/-- The line state after a LINE_KEY that commits (R89). -/
def LineStatus.keyed : LineStatus → LineStatus
  | .idle => .outboundWait
  | .inboundRing => .connected
  | .unanswered => .connected
  | .held => .connected
  | st => st

/-- The handset joins line n, with the outcome of R89. -/
def State.joinLine (s : State) (n h : Nat) : State :=
  let l := s.lineAt n
  let s := (s.setOccupancy h (.line n)).setLine n
    { l with joined := l.joined ++ [h], holdPlaced := l.holdPlaced && l.status != .held }
  if l.status.keyed = l.status then s.handOn (lineNotice s n l.status l.status .key (some h) .done)
  else s.moveLine n l.status.keyed .key (some h) .done

/-- Step 3 of the commit: the handset leaves its old line and joins line n (R88, R90). -/
def State.keyMove (s : State) (n h : Nat) : State :=
  match (s.occupancy h).line? with
  | some m => (s.handsetGone m h .lineSwitch).joinLine n h
  | none => s.joinLine n h

/-- The commit of a LINE_KEY (R88): channel, edits, state, and the CHANNEL_SKIPPED notice after the LINE_STATE notices. -/
def State.commitKey (s : State) (n h : Nat) : State × Code :=
  match s.keyChannel n with
  | .error c => (s, c)
  | .ok (s1, skipped) =>
    match s1.mix.batch false (keyEdits s1 n h) with
    | .error r => (s, r.requestCode)
    | .ok m =>
      let s2 := ({ s1 with mix := m } : State).keyMove n h
      match skipped with
      | some c => (s2.handOn (skippedNotice s2 (.line n) (h / 2) (some h) c), .done)
      | none => (s2, .done)

/-- The line controller takes a LINE_KEY (R86): a key on a line the handset is already joined to is answered DONE. -/
def State.lineKey (s : State) (turret handset n : Nat) : State × Code :=
  let h := handsetOf turret handset
  if ¬ lineFieldsOk s turret handset n then (s, .badRequest)
  else if (s.turret turret).presence ≠ .present then (s, .turretAbsent)
  else if ¬ (s.lineAt n).appearances.any (fun a => a.turret == turret) then (s, .notAppearance)
  else if (s.lineAt n).joined.contains h then (s, .done)
  else
    match keyRefusal s n h with
    | some c => (s, c)
    | none => s.commitKey n h

/-! ### LINE_RELEASE and LINE_HOLD -/

/-- The line controller takes a LINE_RELEASE (R92). -/
def State.lineRelease (s : State) (turret handset n : Nat) : State × Code :=
  let h := handsetOf turret handset
  if ¬ lineFieldsOk s turret handset n then (s, .badRequest)
  else if ¬ (s.lineAt n).joined.contains h then (s, .notJoined)
  else (s.leaveLine n h .release, .done)

/-- The last handset of a CONNECTED line holds it: one batch of the leave's removals and the hold term (R94). -/
def State.holdLast (s : State) (n h : Nat) : State × Code :=
  let l := s.lineAt n
  match s.mix.batch false (leaveEdits s n h ++ holdAdds l) with
  | .error _ => (s, .termsFull)
  | .ok m =>
    let s1 := (({ s with mix := m } : State).setOccupancy h .vacant).setLine n
      { l with joined := l.joined.filter (· != h), holdPlaced := l.record.hold.isSome }
    (s1.moveLine n .held .hold (some h) .done, .done)

/-- The line controller takes a LINE_HOLD (R94). -/
def State.lineHold (s : State) (turret handset n : Nat) : State × Code :=
  let h := handsetOf turret handset
  let l := s.lineAt n
  if ¬ lineFieldsOk s turret handset n then (s, .badRequest)
  else if ¬ l.joined.contains h then (s, .notJoined)
  else if l.joined.filter (· != h) ≠ [] then (s.leaveLine n h .hold, .done)
  else if l.status = .connected then s.holdLast n h
  else (s, .state)

/-! ### The work of a close -/

/-- A lost turret's handset leaves the line its occupancy names (R97). -/
def State.loseHandset (s : State) (h : Nat) : State :=
  match s.occupancy h with
  | .line n => s.leaveLine n h .turretLost
  | _ => s

/-- A line in INBOUND_RING whose ring run equals ring limit × 100, for a limit other than 0, goes to UNANSWERED (R96). -/
def State.takeRingLimit (s : State) (n : Nat) : State :=
  let l := s.lineAt n
  if l.record.enabled ∧ l.status = .inboundRing ∧ l.record.ringLimit ≠ 0 ∧ l.ringRun = l.record.ringLimit * 100 then
    s.moveLine n .unanswered .ringLimit none .done
  else s

/-- A RELEASING line whose release timer is at least the release limit in force goes to INBOUND_RING (R93). -/
def State.takeReleaseTimeout (s : State) (n : Nat) : State :=
  let l := s.lineAt n
  if l.record.enabled ∧ l.status = .releasing ∧ s.plan.floor.releaseLimit ≤ l.releaseTimer then
    s.moveLine n .inboundRing .releaseTimeout none .done
  else s

/-- One enabled line's counts and limits at a close (R93, R96, R101); `ringing` tells that the line was in INBOUND_RING
when the close began. -/
def State.lineClose (s : State) (ringing : Bool) (n : Nat) : State :=
  let l := s.lineAt n
  if l.record.enabled then
    match l.status with
    | .inboundRing => if ringing then (s.setLine n { l with ringRun := l.ringRun + 1 }).takeRingLimit n else s
    | .releasing => (s.setLine n { l with releaseTimer := l.releaseTimer + 1 }).takeReleaseTimeout n
    | _ => s
  else s

/-- The counts and limits of lines at a close, in order. DESIGN CHOICE: line by line in ascending number, where the spec does not order
the limits of two lines at one close; it decides which line's ring finds the last room of a ringer slot that they share (R96, R108,
R112; log entry 12). -/
def State.lineCloses (s : State) (ringing : List Nat) : List Nat → State
  | [] => s
  | n :: rest => (s.lineClose (ringing.contains n) n).lineCloses ringing rest

/-- The enabled lines in INBOUND_RING, of the 128. -/
def ringingLines (s : State) : List Nat :=
  (List.range 128).filter fun n => (s.lineAt n).record.enabled && (s.lineAt n).status == .inboundRing

/-! ### Line records -/

/-- The code of a record whose edits the mix engine refuses: TERMS_FULL, or RANGE for DUPLICATE (R75, R115). -/
def EditRefusal.recordCode : EditRefusal → Code
  | .duplicate => .range
  | _ => .termsFull

/-- The edits of an enabled line's far source and outbound term (R75). -/
def lineAdds (n : Nat) (r : LineRec) : List Edit :=
  [.addContrib n (farContrib r), .addTerm r.out (lineTerm n (some r.far)) .line]

def lineDrops (n : Nat) (r : LineRec) : List Edit :=
  [.dropContrib n r.far, .dropTerm r.out (lineTerm n (some r.far)) .line]

/-- The edits of a change of an enabled line (R75): the contributor where the far source or receive gain changes, the
outbound term where the far source or outbound slot changes. -/
def lineChanges (n : Nat) (old new : LineRec) : List Edit :=
  let contrib := old.far ≠ new.far ∨ old.rxGain ≠ new.rxGain
  let term := old.far ≠ new.far ∨ old.out ≠ new.out
  (if contrib then [.dropContrib n old.far] else [])
    ++ (if term then [.dropTerm old.out (lineTerm n (some old.far)) .line] else [])
    ++ (if contrib then [.addContrib n (farContrib new)] else [])
    ++ (if term then [.addTerm new.out (lineTerm n (some new.far)) .line] else [])

/-- An enabled line enters IDLE with its state fields as after power-on reset, CLEAR is written, and the held inbound code
is taken as though just written, with cause PLAN (R75). DESIGN CHOICE: the burst of CLEAR is issued before those of what the held
code brings (R77, R168; log entry 40). -/
def State.enableLine (s : State) (n : Nat) (r : LineRec) : State :=
  let l := s.lineAt n
  let s := (s.setLine n { bank0 := l.bank0, bank1 := l.bank1, inbound := l.inbound, record := r }).writeOutbound n
  match l.inbound with
  | .clear => s
  | .seize => s.moveLine n .inboundRing .plan none .done
  | .fault => s.moveLine n .outOfService .plan none .done

/-- A line record is applied (R75). -/
def State.applyLine (s : State) (n : Nat) (r : LineRec) : State × Code :=
  let l := s.lineAt n
  if r = l.record then (s, .applied)
  else if r.enabled then
    match s.mix.batch true (if l.record.enabled then lineChanges n l.record r else lineAdds n r) with
    | .error e => (s, e.recordCode)
    | .ok m =>
      let s : State := { s with mix := m }
      if l.record.enabled then (s.setLine n { l with record := r }, .applied) else (s.enableLine n r, .applied)
  else if l.record.enabled then
    let s := s.askEach (lineDrops n l.record)
    let s := if l.status = .outOfService then s.moveLine n .idle .plan none .done else s
    (s.setLine n { s.lineAt n with record := r }, .applied)
  else (s.setLine n { l with record := r }, .applied)

end Sys2Proof.Machine
end

