-- ==== Sys2Proof/Machine/GroupUnit.lean ====
section
/-!
DEFINITION. The group controller: joins and leaves (R117 to R125), talk keys (R126, R127), key latches and timeouts (R128,
R129), turret loss (R131), and group records (R115).
-/

namespace Sys2Proof.Machine

/-! ### Occupancy of handsets -/

/-- A claim of a handset for group g: granted where the entry is NONE (R78). -/
def State.claim (s : State) (h g : Nat) : Except Code State :=
  if s.occupancy h = .vacant then .ok (s.setOccupancy h (.group g)) else .error .handsetBusy

/-- A free of a handset by group g: it has no effect where the entry is not GROUP g (R78). -/
def State.free (s : State) (h g : Nat) : State :=
  if s.occupancy h = .group g then s.setOccupancy h .vacant else s

/-- The handset of an attach, or none for SPEAKER (R118). -/
def attachHandset (t : Nat) : Attach → Option Nat
  | .handsetL => some (t * 2)
  | .handsetR => some (t * 2 + 1)
  | .speaker => none

/-- The mic source a turret record names for an attach (R118). -/
def TurretRec.attachMic (r : TurretRec) : Attach → Option Nat
  | .handsetL => r.micL
  | .handsetR => r.micR
  | .speaker => r.micSpeaker

/-- The listen slot of an attach: the turret record's for a handset, the one the join names for SPEAKER (R118). -/
def TurretRec.attachSlot (r : TurretRec) (named : Nat) : Attach → Nat
  | .handsetL => r.slotL
  | .handsetR => r.slotR
  | .speaker => named

/-! ### Members' edits -/

/-- The listener term of a group (R118, R119). -/
def groupTerm (g gain : Nat) (exclude : Option Nat) : Term := { kind := .bus (128 + g) exclude, gain := gain }

/-- The member record that a join makes (R118, R119): an INTERCOM member is talk-capable when it has a mic; a listen-only
BOX member places no contributor, so its mic source is none. -/
def newMember (kind : GroupKind) (r : TurretRec) (t : Nat) (a : Attach) (slot listenGain talkGain : Nat) (talk : Bool) :
    Member :=
  let mic := match kind with
    | .intercom => r.attachMic a
    | .box => if talk then r.attachMic a else none
  { turret := t, attach := a, mic := mic, slot := r.attachSlot slot a, listenGain := clamp 0 32767 listenGain,
    talker := match kind with
      | .intercom => mic.isSome
      | .box => talk
    talkGain := clamp 0 32767 talkGain }

/-- The contributor kind of a group's talkers: OPEN in an INTERCOM, KEYED in a BOX (R118, R119). -/
def GroupKind.contrib : GroupKind → ContribKind
  | .intercom => .opened
  | .box => .keyed

/-- The additions that a join asks: the listener term, and the contributor where the member places one (R118, R119). -/
def memberAdds (g : Nat) (kind : GroupKind) (m : Member) : List Edit :=
  [.addTerm m.slot (groupTerm g m.listenGain m.mic) .group]
    ++ match m.mic with
       | some src => [.addContrib (128 + g) { source := src, gain := m.talkGain, kind := kind.contrib }]
       | none => []

/-- The removals that a leave asks: what the join placed (R124). -/
def memberDrops (g : Nat) (m : Member) : List Edit :=
  [.dropTerm m.slot (groupTerm g m.listenGain m.mic) .group]
    ++ match m.mic with
       | some src => [.dropContrib (128 + g) src]
       | none => []

/-- A MEMBER_JOINED or MEMBER_LEFT notice, with the member counts before and after (R123, R124). -/
def memberNotice (s : State) (kind : NoticeKind) (g : Nat) (m : Member) (before after : Nat) (cause : Cause) : Notice :=
  { cls := .group, kind := kind, cause := some cause, frame := s.src.F, object := some g, turret := some m.turret,
    handset := attachHandset m.turret m.attach, old := some before, new := some after }

/-! ### GROUP_JOIN -/

/-- What a GROUP_JOIN names (R120), its fields as written. -/
structure JoinRequest where
  turret : Nat
  group : Nat
  attach : Nat
  talk : Bool
  slot : Nat
  listenGain : Nat
  talkGain : Nat
  deriving DecidableEq, Repr

/-- Check 1 of a GROUP_JOIN: the fields (R120). -/
def joinFieldsOk (s : State) (j : JoinRequest) : Option Attach :=
  match Attach.list[j.attach]? with
  | none => none
  | some a =>
    let g := s.groupAt j.group
    if j.turret ≤ 63 ∧ j.group ≤ 31 ∧ g.record.enabled ∧ (a = .speaker → j.slot ≤ 255)
        ∧ (g.record.kind = .box → a = .speaker)
        ∧ (g.record.kind = .box ∧ j.talk → (s.turret j.turret).record.micSpeaker.isSome) then some a
    else none

/-- Check 4: the group has room (R120). -/
def groupRoom (x : Group) (talk : Bool) : Bool :=
  match x.record.kind with
  | .intercom => x.memberCount < 16
  | .box => x.memberCount < 64 && (!talk || x.talkerCount < 20)

/-- Check 6: the member's edits fit (R121). DESIGN CHOICE: where the slot has no room, or the bus is at its limit, and the mic is
already on the bus as well, the code is TERMS_FULL: R120 and R121 give the two codes without an order (log entry 13). -/
def joinFits (s : State) (g : Nat) (m : Member) : Option Code :=
  if 12 < (s.slot m.slot).occupancy + 1 then some .termsFull
  else
    match m.mic with
    | none => none
    | some src =>
      if 24 ≤ (s.bus (128 + g)).occupancy then some .termsFull
      else if (s.bus (128 + g)).has src then some .badRequest
      else none

/-- Check 7: the record condition of a REQUIRED group with no turret members (R121). -/
def joinRecordOk (s : State) (g : Nat) : Option Code :=
  if (s.groupAt g).members = [] ∧ (s.groupAt g).record.mode = .required then
    if s.recorder.status = .outage then some .recorderDown
    else if s.freeChannel.isNone then some .noRecordChannel
    else none
  else none

/-- Checks 2 to 7 of a GROUP_JOIN, in order (R120). -/
def joinRefusal (s : State) (g : Nat) (m : Member) (talk : Bool) : Option Code :=
  firstRefusal
    [if (s.turret m.turret).presence = .present then none else some .turretAbsent,
     if ((s.groupAt g).member m.turret).isSome then some .alreadyMember else none,
     if groupRoom (s.groupAt g) talk then none else some .groupFull,
     match attachHandset m.turret m.attach with
     | some h => if s.occupancy h = .vacant then none else some .handsetBusy
     | none => none,
     joinFits s g m,
     joinRecordOk s g]

/-- Step 1 of the commit: the channel of a group with no turret members (R122). -/
def State.joinChannel (s : State) (g : Nat) : Except Code (State × Option Code) :=
  if (s.groupAt g).members = [] then
    match (s.groupAt g).record.mode with
    | .never => .ok (s, none)
    | .required =>
      match s.requestChannel (.group g) true with
      | .ok s => .ok (s, none)
      | .error c => .error c
    | .wanted =>
      match s.requestChannel (.group g) false with
      | .ok s => .ok (s, none)
      | .error c => .ok (s, some c)
  else .ok (s, none)

/-- Step 2 of the commit: the claim of a handset attach (R122). -/
def State.joinClaim (s : State) (g : Nat) (m : Member) : Except Code State :=
  match attachHandset m.turret m.attach with
  | some h => s.claim h g
  | none => .ok s

/-- Step 4 of the commit: the member is added at the end of the list, with its MEMBER_JOINED (R122, R123). -/
def State.addMember (s : State) (g : Nat) (m : Member) : State :=
  let x := s.groupAt g
  let s := s.setGroup g { x with members := x.members ++ [m] }
  s.handOn (memberNotice s .memberJoined g m x.memberCount (x.memberCount + 1) .join)

/-- The commit of a GROUP_JOIN (R122): a refusal at any step leaves everything as it was. -/
def State.commitJoin (s : State) (g : Nat) (m : Member) : State × Code :=
  match s.joinChannel g with
  | .error c => (s, c)
  | .ok (s1, skipped) =>
    match s1.joinClaim g m with
    | .error c => (s, c)
    | .ok s2 =>
      match s2.mix.batch false (memberAdds g (s.groupAt g).record.kind m) with
      | .error r => (s, r.requestCode)
      | .ok mx =>
        let s3 := ({ s2 with mix := mx } : State).addMember g m
        match skipped with
        | some c => (s3.handOn (skippedNotice s3 (.group g) m.turret (attachHandset m.turret m.attach) c), .done)
        | none => (s3, .done)

/-- The group controller takes a GROUP_JOIN (R120). -/
def State.groupJoin (s : State) (j : JoinRequest) : State × Code :=
  match joinFieldsOk s j with
  | none => (s, .badRequest)
  | some a =>
    let m := newMember (s.groupAt j.group).record.kind (s.turret j.turret).record j.turret a j.slot j.listenGain
      j.talkGain j.talk
    match joinRefusal s j.group m j.talk with
    | some c => (s, c)
    | none => s.commitJoin j.group m

/-! ### Leaving -/

/-- A member leaves group g (R124): its edits are asked, its handset freed, it is taken from the list, the channel of a
group without members is freed, and MEMBER_LEFT is handed on. -/
def State.leaveGroup (s : State) (g : Nat) (m : Member) (cause : Cause) : State :=
  let x := s.groupAt g
  let rest := x.members.filter fun o => o.turret != m.turret
  let s := s.askEach (memberDrops g m)
  let s := match attachHandset m.turret m.attach with
    | some h => s.free h g
    | none => s
  let s := s.setGroup g { x with members := rest }
  let s := if rest = [] then s.reportIdle (.group g) else s
  s.handOn (memberNotice s .memberLeft g m x.memberCount rest.length cause)

/-- The group controller takes a GROUP_LEAVE (R125). -/
def State.groupLeave (s : State) (t g : Nat) : State × Code :=
  if 63 < t ∨ 31 < g then (s, .badRequest)
  else
    match (s.groupAt g).member t with
    | none => (s, .notMember)
    | some m => (s.leaveGroup g m .leave, .done)

/-! ### Talk keys -/

/-- A KEYED or UNKEYED notice (R130). -/
def keyNotice (s : State) (g t : Nat) (keyed : Bool) (cause : Cause) : Notice :=
  { cls := .group, kind := if keyed then .keyed else .unkeyed, cause := some cause, frame := s.src.F, object := some g,
    turret := some t, old := some (if keyed then 0 else 1), new := some (if keyed then 1 else 0) }

/-- A member's key state becomes KEYED or UNKEYED, with keyed run 0 (R126, R127, R129). -/
def Group.setKey (x : Group) (t : Nat) (keyed : Bool) : Group :=
  { x with members := x.members.map fun m => if m.turret = t then { m with keyed := keyed, keyedRun := 0 } else m }

/-- The key state changes and its notice is handed on. -/
def State.setKey (s : State) (g t : Nat) (keyed : Bool) (cause : Cause) : State :=
  let s := s.setGroup g ((s.groupAt g).setKey t keyed)
  s.handOn (keyNotice s g t keyed cause)

/-- The member has a key: it is a talk-capable member of a BOX group (R119, R126). -/
def hasKey (x : Group) (m : Member) : Bool := x.record.kind == .box && m.talker

/-- The group controller takes a TALK_KEY (R126). -/
def State.talkKey (s : State) (t g : Nat) : State × Code :=
  if 63 < t ∨ 31 < g then (s, .badRequest)
  else
    match (s.groupAt g).member t with
    | none => (s, .notMember)
    | some m =>
      if ¬ hasKey (s.groupAt g) m then (s, .notTalker)
      else if (s.groupAt g).record.mode = .required ∧ s.recorder.status = .outage then (s, .recorderDown)
      else if m.keyed then (s, .done)
      else (s.setKey g t true .key, .done)

/-- The group controller takes a TALK_UNKEY (R127). -/
def State.talkUnkey (s : State) (t g : Nat) : State × Code :=
  if 63 < t ∨ 31 < g then (s, .badRequest)
  else
    match (s.groupAt g).member t with
    | none => (s, .notMember)
    | some m =>
      if ¬ hasKey (s.groupAt g) m then (s, .notTalker)
      else if m.keyed then (s.setKey g t false .unkey, .done)
      else (s, .done)

/-! ### The work of a close -/

/-- A key timeout is due of a KEYED member of an enabled BOX group, for a key limit other than 0, when its keyed run is at
least the key limit plus what the run has grown since the close that tests it: 0 at the close, which tests before it grows, and
1 after it (R129, log entry 19). -/
def Group.keyDue (x : Group) (grown : Nat) (m : Member) : Bool :=
  x.record.enabled && x.record.kind == .box && x.record.keyLimit != 0 && m.keyed
    && decide (x.record.keyLimit + grown ≤ m.keyedRun)

/-- The key timeout of one member, where it is due (R129). -/
def State.takeKeyTimeout (s : State) (grown g t : Nat) : State :=
  if ((s.groupAt g).member t).any ((s.groupAt g).keyDue grown) then s.setKey g t false .keyTimeout else s

/-- The key timeouts of a group's members, in join order (R130). -/
def State.takeKeyTimeouts (s : State) (g : Nat) : List Nat → State
  | [] => s
  | t :: rest => (s.takeKeyTimeout 0 g t).takeKeyTimeouts g rest

/-- A KEYED member's keyed run grows by one, saturating (R129). -/
def Member.grow (m : Member) : Member := if m.keyed then { m with keyedRun := min 65535 (m.keyedRun + 1) } else m

/-- One group's key work at a close: the timeouts that are due, and the runs of the members still KEYED grow (R129). -/
def State.keyClose (s : State) (g : Nat) : State :=
  let x := s.groupAt g
  if x.record.enabled ∧ x.record.kind = .box then
    let s := s.takeKeyTimeouts g (x.members.map (·.turret))
    s.setGroup g { s.groupAt g with members := (s.groupAt g).members.map Member.grow }
  else s

/-- The key work of groups, in order (R129, R130, R135). -/
def State.keyCloses (s : State) : List Nat → State
  | [] => s
  | g :: rest => (s.keyClose g).keyCloses rest

/-- The key latches of a group for P: the mic sources of its KEYED talk-capable BOX members (R128). -/
def Group.latch (x : Group) : Group :=
  { x with latched := if x.record.kind = .box then x.members.filterMap fun m => if m.talker ∧ m.keyed then m.mic else none
                      else [] }

/-- The key latches of every group are formed for P (R128). -/
def State.formLatches (s : State) : State := { s with group.groups := s.group.groups.map fun _ x => x.latch }

/-- A lost turret's membership of group g is removed (R131). -/
def State.loseMember (s : State) (t g : Nat) : State :=
  match (s.groupAt g).member t with
  | some m => s.leaveGroup g m .turretLost
  | none => s

/-- Every membership of a lost turret is removed, in ascending group order (R131). -/
def State.loseMembers (s : State) (t : Nat) : List Nat → State
  | [] => s
  | g :: rest => (s.loseMember t g).loseMembers t rest

/-! ### Group records -/

/-- The additions of a group's feeds (R115, R116). -/
def feedAdds (g : Nat) (l : List Feed) : List Edit :=
  l.flatMap fun f =>
    [.addContrib (128 + g) { source := f.source, gain := f.gain, kind := .opened },
     .addTerm f.slot (groupTerm g 16384 (some f.source)) .group]

/-- The removals of a group's feeds (R115). -/
def feedDrops (g : Nat) (l : List Feed) : List Edit :=
  l.flatMap fun f => [.dropContrib (128 + g) f.source, .dropTerm f.slot (groupTerm g 16384 (some f.source)) .group]

/-- A group record is applied (R115). -/
def State.applyGroup (s : State) (g : Nat) (r : GroupRec) : State × Code :=
  let x := s.groupAt g
  if r = x.record then (s, .applied)
  else if r.enabled then
    let edits :=
      if x.record.enabled then
        feedDrops g (x.record.feeds.filter fun f => f ∉ r.feeds) ++ feedAdds g (r.feeds.filter fun f => f ∉ x.record.feeds)
      else feedAdds g r.feeds
    match s.mix.batch true edits with
    | .error e => (s, e.recordCode)
    | .ok m =>
      let s : State := { s with mix := m }
      if x.record.enabled then (s.setGroup g { x with record := r }, .applied)
      else (s.setGroup g { record := r }, .applied)
  else if x.record.enabled then ((s.askEach (feedDrops g x.record.feeds)).setGroup g { x with record := r }, .applied)
  else (s.setGroup g { x with record := r }, .applied)

end Sys2Proof.Machine
end

