-- ==== Sys2Proof/Machine/SourceUnit.lean ====
section
/-!
DEFINITION. The source unit: intake (R7, R12 to R19), turret presence (R25 to R27), the playout decision (R20 to R23), talk
detection (R29 to R42), and the application of view, source and turret records (R11, R24, R42, R181).
-/

namespace Sys2Proof.Machine

/-! ### Arrivals -/

/-- The class of an arrival (R13). -/
inductive Arrival where | stale | late | onTime | early deriving DecidableEq, Repr

/-- The distance of a ring position from the playout frame: (q - P) mod 8 (R13). -/
def ringDistance (q : Nat) (P : FrameNo) : Nat := (q + 8 - P.toNat % 8) % 8

/-- The class of an arrival from its distance and the lag (R13). -/
def classify (d lag : Nat) : Arrival :=
  if d = 0 ∨ d = 7 then .stale else if d < lag then .late else if d = lag then .onTime else .early

/-- An arrival counts in its class (R16). -/
def ArrivalCounts.count (c : ArrivalCounts) : Arrival → ArrivalCounts
  | .stale => { c with stale := c.stale + 1 }
  | .late => { c with late := c.late + 1 }
  | .onTime => { c with onTime := c.onTime + 1 }
  | .early => { c with early := c.early + 1 }

/-- An arrival that finds its own frame in the position also counts duplicate (R14, R16). -/
def ArrivalCounts.again (c : ArrivalCounts) (dup : Bool) : ArrivalCounts :=
  if dup then { c with duplicate := c.duplicate + 1 } else c

/-- An accepted frame f at position q: the tag, the level tag and the counts (R14, R16, R29). -/
def Source.accept (x : Source) (q : Nat) (f : FrameNo) (a : Arrival) (frame : Burst) : Source :=
  { x with
    arrivals := (x.arrivals.count a).again (x.tag q == some f)
    tags := x.tags.set q (some f)
    levels := x.levels.set q (frameLevel frame) }

/-- A TURRET_PRESENT or TURRET_LOST notice (R26, R27). -/
def turretNotice (kind : NoticeKind) (t : Nat) (frame : FrameNo) : Notice :=
  { cls := .turret, kind := kind, frame := frame, object := some t, turret := some t }

/-- A turret hears of an accepted frame of its mic: its run is 0, and an UNKNOWN or LOST one becomes PRESENT, with its
notice, and is rung on the lines that ring (R26, R110). DESIGN CHOICE: the notice first, then the ringing lines in ascending
number (log entry 35). -/
def State.hearTurret (s : State) (t : Nat) : State :=
  let x := s.turret t
  let s := s.setTurret t { x with presence := .present, run := 0 }
  if x.presence = .present then s
  else (s.handOn (turretNotice .turretPresent t s.src.F)).returnRingers t (List.range 128)

/-- Every enabled turret whose record names the source hears of its accepted frame (R26). DESIGN CHOICE: the turrets in the
order of the list, ascending (log entry 35). -/
def State.hearTurrets (s : State) (source : Nat) : List Nat → State
  | [] => s
  | t :: rest =>
    if (s.turret t).record.enabled && (s.turret t).record.names source then (s.hearTurret t).hearTurrets source rest
    else s.hearTurrets source rest

/-- The class of an arrival for position q taken now (R13). -/
def State.arrivalClass (s : State) (q : Nat) : Arrival := classify (ringDistance q s.P) s.src.lag

/-- The frame that belongs at position q: P + d (R13). -/
def State.arrivalFrame (s : State) (q : Nat) : FrameNo := s.P + BitVec.ofNat 32 (ringDistance q s.P)

/-- A talk frame arrives for position q of a source, for a queue entry of a master: dropped where the source is not taken
for intake, counted and dropped where STALE, else written to its home position with its tag and level (R12 to R16). The
home write names the entry that waits for it. -/
def State.arrive (s : State) (m entry source q : Nat) (frame : Burst) : State :=
  let x := s.source source
  if x.intake then
    match s.arrivalClass q with
    | .stale => s.setSource source { x with arrivals := x.arrivals.count .stale }
    | a =>
      let s := s.issueWrite (.homeWrite source m entry) (homeOffset source q) frame
      (s.setSource source (x.accept q (s.arrivalFrame q) a frame)).hearTurrets source (List.range 64)
  else s

/-- How many home writes the arrival of a frame for position q of a source issues (R14, R167). -/
def State.arrivalWrites (s : State) (source q : Nat) : Nat :=
  if (s.source source).intake && s.arrivalClass q != .stale then 1 else 0

/-- A talk write of a direct view (R7): the frame arrives, and the master's OK is known once memory has answered the home
write, or at once where none is issued (R14, R15, R167). -/
def State.talkWrite (s : State) (m source q : Nat) (frame : Burst) : State :=
  let entry := s.path.nextId
  let writes := s.arrivalWrites source q
  (s.tick.arrive m entry source q frame).appendEntry m { id := entry, awaiting := writes, response := .ok }

/-! ### Gather slots -/

/-- Frame k of a completed block: sample t is that of burst floor(t / (16/C)) at place (t mod (16/C)) × C + k (R19). -/
def gatherFrame (C k : Nat) (b : Block) : Burst :=
  packSamples ((List.range 16).map fun t => sample (b.bursts.get 0 (t / (16 / C))) (t % (16 / C) * C + k))

/-- Frames for consecutive sources arrive for one position (R19). DESIGN CHOICE: one after another, in ascending number (log
entry 35). -/
def State.arriveAll (s : State) (m entry q : Nat) : List (Nat × Burst) → State
  | [] => s
  | (source, frame) :: rest => (s.arrive m entry source q frame).arriveAll m entry q rest

/-- A discarded block counts gather_broken for a source taken for intake (R18). -/
def Source.breakGather (x : Source) : Source :=
  if x.intake then { x with arrivals := { x.arrivals with gatherBroken := x.arrivals.gatherBroken + 1 } } else x

/-- A displaced block counts gather_broken for each of its sources (R18). -/
def State.breakGathers (s : State) : List Nat → State
  | [] => s
  | i :: rest => (s.setSource i (s.source i).breakGather).breakGathers rest

/-- The block that a gather burst j for position q leaves in its slot: a new one, or the held one with the burst added or
replaced (R17, R18). -/
def gatherInto (held : Option Block) (q j : Nat) (d : Burst) : Block :=
  match held with
  | some b => if b.position = q then { b with bursts := b.bursts.set j d } else { position := q, bursts := Table.set {} j d }
  | none => { position := q, bursts := Table.set {} j d }

/-- A gather burst for group g, position q and burst j of view v (R17 to R19). DESIGN CHOICE: the C arrivals of a completed
block, which R19 takes at the same moment, in ascending number (log entry 35). -/
def State.gatherWrite (s : State) (m v g q j : Nat) (d : Burst) : State :=
  let w := s.view v
  let C := w.record.width
  let sources := (List.range C).map fun k => w.record.talkBase + g * C + k
  let held := w.slots.get none g
  let s := match held with
    | some b => if b.position = q then s else s.breakGathers sources
    | none => s
  let b := gatherInto held q j d
  let entry := s.path.nextId
  if (List.range C).all fun i => b.bursts.keys.contains i then
    let s := s.setView v { w with slots := w.slots.set g none }
    let writes := (sources.map fun i => s.arrivalWrites i q).sum
    (s.tick.arriveAll m entry q ((List.range C).map fun k => (w.record.talkBase + g * C + k, gatherFrame C k b))).appendEntry
      m { id := entry, awaiting := writes, response := .ok }
  else
    (s.setView v { w with slots := w.slots.set g (some b) }).tick.appendEntry m
      { id := entry, awaiting := 0, response := .ok }

/-! ### Detection -/

/-- The window and the count of an onset rule (R36). -/
def OnsetRule.window : OnsetRule → Nat × Nat
  | .oneOf1 => (1, 1)
  | .twoOf3 => (3, 2)
  | .fourOf8 => (8, 4)
  | .sevenOf8 => (8, 7)

/-- The onset: at least k loud outcomes among the newest n (R36, R37). -/
def onset (rule : OnsetRule) (history : List Bool) : Bool :=
  decide (rule.window.2 ≤ ((history.take rule.window.1).filter id).length)

/-- The smoothed level moves by floor((m - old) / 8) (R33). -/
def smooth (old m : Nat) : Nat := ((old : Int) + ((m : Int) - old) / 8).toNat

/-- A flag that is on turns off when its hang counter has reached 0 on a quiet frame (R37). -/
def Detect.expireHang (x : Detect) : Detect :=
  if x.flag ∧ x.hang = 0 ∧ x.history.head? = some false then { x with flag := false } else x

/-- The level, peak and history of the frame for P (R33 to R36). -/
def Detect.measure (x : Detect) (r : SourceRec) (m : Nat) : Detect :=
  { x with smoothed := smooth x.smoothed m, peak := max x.peak m,
           history := (decide (r.threshold ≤ m) :: x.history).take 8 }

/-- The step of the talk flag, after the history is updated (R37). -/
def Detect.stepFlag (x : Detect) (r : SourceRec) (m : Nat) : Detect :=
  if x.flag then
    if r.threshold ≤ m then { x with hang := r.hang } else { x with hang := x.hang - 1 }.expireHang
  else if onset r.onset x.history then { x with flag := true, hang := r.hang }
  else { x with hang := 0 }

/-- The guard run after the flag is stepped (R39). -/
def Detect.runGuard (x : Detect) : Detect := { x with guardRun := if x.flag then min 65535 (x.guardRun + 1) else 0 }

/-- The source becomes GUARDED: not GUARDED, a limit other than 0, its flag on, and its run at least the limit (R39). -/
def Detect.raiseGuard (x : Detect) (r : SourceRec) : Detect :=
  if ¬ x.guarded ∧ r.guardLimit ≠ 0 ∧ x.flag ∧ r.guardLimit ≤ x.guardRun then { x with guarded := true } else x

/-- A GUARDED source is cleared when its flag is off or its limit is 0 (R40). -/
def Detect.clearGuard (x : Detect) (r : SourceRec) : Detect :=
  if x.guarded ∧ (x.flag = false ∨ r.guardLimit = 0) then { x with guarded := false } else x

/-- The detection steps of a close, in order (R31 to R40). -/
def Detect.step (x : Detect) (r : SourceRec) (m : Nat) : Detect :=
  ((((x.measure r m).stepFlag r m).runGuard.clearGuard r).raiseGuard r)

/-! ### The playout decision -/

/-- The playout status of an enabled talk source for P, from its tags (R20). -/
def Source.decide (x : Source) (P : FrameNo) : Playout :=
  if x.tag (P.toNat % 8) = some P then .present
  else if x.record.conceal = .holdOne ∧ x.tag ((P - 1).toNat % 8) = some (P - 1) then .concealed
  else .silent

/-- The frame level for P (R32). -/
def Source.levelFor (x : Source) (P : FrameNo) : Playout → Nat
  | .present => x.levelTag (P.toNat % 8)
  | .concealed => x.levelTag ((P - 1).toNat % 8)
  | .silent => 0

/-- The count of a playout status grows (R23). -/
def PlayoutCounts.count (c : PlayoutCounts) : Playout → PlayoutCounts
  | .present => { c with present := c.present + 1 }
  | .concealed => { c with concealed := c.concealed + 1 }
  | .silent => { c with silent := c.silent + 1 }

/-- A source's work at the close that begins P: a talk source is decided, counted and detected; a TONE source is PRESENT
with its detection state held cleared; a disabled source is SILENT (R20 to R23, R31, R32). DESIGN CHOICE: the frame level of
a TONE or disabled source, which R41 does not name, is 0 (log entry 37). -/
def Source.close (P : FrameNo) (x : Source) : Source :=
  if x.intake then
    let st := x.decide P
    let m := x.levelFor P st
    { x with status := st, plays := x.plays.count st, level := m, det := x.det.step x.record m }
  else if x.record.enabled then { x with status := .present, level := 0, det := {} }
  else { x with status := .silent, level := 0 }

/-- A GUARD_ON or GUARD_OFF notice (R41). -/
def guardNotice (i : Nat) (on : Bool) (P : FrameNo) : Notice :=
  { cls := .source, kind := if on then .guardOn else .guardOff, frame := P, object := some i,
    old := some (if on then 0 else 1), new := some (if on then 1 else 0) }

/-- The notice of a change of a source's guard state from `old` to `new`, if it changes (R39, R40). -/
def guardChange (i : Nat) (P : FrameNo) (old new : Bool) : List Notice :=
  if old = new then [] else [guardNotice i new P]

/-- Every source's work at the close that begins P, with the guard notices in order of source. -/
def State.closeSources (s : State) : State :=
  let notices := (List.range 384).flatMap fun i =>
    guardChange i s.P (s.source i).det.guarded ((s.source i).close s.P).det.guarded
  ({ s with src.sources := s.src.sources.map fun _ x => x.close s.P } : State).handOnAll notices

/-! ### Turret presence at a close -/

/-- The silence run of an enabled turret grows by one, saturating (R25, R27). -/
def Turret.grow (x : Turret) : Turret := if x.record.enabled then { x with run := min 65535 (x.run + 1) } else x

/-- A PRESENT turret whose silence run is at least the loss limit becomes LOST (R27). -/
def Turret.due (x : Turret) (limit : Nat) : Bool :=
  x.record.enabled && x.presence == .present && decide (limit ≤ x.run)

/-- A turret becomes LOST: its notice carrying P, its ringer terms removed (R110), its handsets off their lines (R97), its
memberships removed (R131). DESIGN CHOICE: in this order (log entry 36). -/
def State.loseTurret (s : State) (t : Nat) : State :=
  let s := s.setTurret t { s.turret t with presence := .lost }
  let s := s.handOn (turretNotice .turretLost t s.P)
  let s := s.dropRingers t (List.range 128)
  let s := (s.loseHandset (t * 2)).loseHandset (t * 2 + 1)
  s.loseMembers t (List.range 32)

/-- The loss of a turret, where it is due under a loss limit (R27). -/
def State.takeLoss (s : State) (limit t : Nat) : State := if (s.turret t).due limit then s.loseTurret t else s

/-- The losses of turrets, in order. DESIGN CHOICE: those of one close in ascending number, where the spec does not order them (log
entry 12). -/
def State.takeLosses (s : State) (limit : Nat) : List Nat → State
  | [] => s
  | t :: rest => (s.takeLoss limit t).takeLosses limit rest

/-! ### Records of the source unit -/

/-- A view record is applied: where it differs, every gather slot of the view is discarded first (R11). -/
def State.applyView (s : State) (v : Nat) (r : ViewRec) : State :=
  if r = (s.view v).record then s else s.setView v { record := r }

/-- A source record is applied, by the three cases of R24 and R42. -/
def Source.apply (x : Source) (r : SourceRec) : Source :=
  if r.enabled ∧ (x.record.enabled = false ∨ r.kind ≠ x.record.kind) then { record := r }
  else if x.record.enabled ∧ r.enabled = false then { x with record := r, det := { x.det with guarded := false } }
  else { x with record := r }

/-- A source record is applied; a GUARDED source that it disables, or whose kind it changes, gives a GUARD_OFF (R42). -/
def State.applySource (s : State) (i : Nat) (r : SourceRec) : State :=
  let x := s.source i
  (s.setSource i (x.apply r)).handOnAll (if x.record.enabled then guardChange i s.P x.det.guarded (x.apply r).det.guarded
    else [])

/-- A turret record is applied: where it differs, the turret becomes UNKNOWN with silence run 0, and its ringer terms are
removed (R25, R110, R181). -/
def State.applyTurret (s : State) (t : Nat) (r : TurretRec) : State :=
  if r = (s.turret t).record then s else (s.setTurret t { record := r }).dropRingers t (List.range 128)

end Sys2Proof.Machine
end

