-- ==== Sys2Proof/Machine/PlanUnit.lean ====
section
/-!
DEFINITION. The plan unit: staging (R173 to R175), the application of plan records at a close (R176 to R181), and the
taking of requests (R182 to R185).
-/

namespace Sys2Proof.Machine

/-! ### Staging -/

/-- A staged entry for the record number is replaced: contents and tag new, held mark clear, its place kept (R174). -/
def restage (r : Nat) (d : Burst) (l : List Staged) : List Staged :=
  l.map fun e => if e.record = r then { record := r, data := d } else e

/-- The plan unit takes a full plan-area write that memory answered OK (R173, R174). -/
def State.takePlan (s : State) (r : Nat) (d : Burst) : State :=
  if (recordId r).isNone then s.handOn (planNotice s r (planTag d) .range)
  else if s.plan.staging.any fun e => e.record == r then { s with plan.staging := restage r d s.plan.staging }
  else if s.plan.staging.length < 64 then { s with plan.staging := s.plan.staging ++ [{ record := r, data := d }] }
  else s.handOn (planNotice s r (planTag d) .stagingFull)

/-- The tag of a partial plan write: the written one where both its bytes are enabled, else 0 (R175, log entry 14). -/
def partialTag (d : Burst) (en : Enables) : Nat := if en.getLsbD 30 ∧ en.getLsbD 31 then planTag d else 0

/-- The plan unit is handed a partial plan-area write (R175). -/
def State.takePartialPlan (s : State) (r : Nat) (d : Burst) (en : Enables) : State :=
  s.handOn (planNotice s r (partialTag d en) .partialWrite)

/-! ### Application at a close -/

/-- The object of a record is busy (R178). -/
def busy (s : State) : RecordId → Bool
  | .line n | .bank0 n | .bank1 n =>
    (s.lineAt n).record.enabled && (s.lineAt n).status != .idle && (s.lineAt n).status != .outOfService
  | .turret t =>
    (s.occupancy (t * 2)).line?.isSome || (s.occupancy (t * 2 + 1)).line?.isSome
      || (List.range 32).any fun g => ((s.groupAt g).member t).isSome
  | .group g => (s.groupAt g).members ≠ []
  | _ => false

/-- A recipe record is applied, or refused TERMS_FULL (R54). -/
def State.applyRecipe (s : State) (u : Nat) (r : RecipeRec) : State × Code :=
  let x := s.slot u
  if 12 < r.planned.length + x.dynOccupancy then (s, .termsFull)
  else (s.setSlot u { x with enabled := r.enabled, volume := r.volume, planned := r.planned }, .applied)

/-- A floor record is applied (R180): a change of time mode from STROBE to FRAMES clears the fresh mark (R158). -/
def State.applyFloor (s : State) (r : FloorRec) : State :=
  let fresh := s.recorder.fresh && !(s.plan.floor.timeMode == .strobe && r.timeMode == .frames)
  { s with plan.floor := r, recorder.fresh := fresh }

/-- What becomes of a staged record (R176): its outcome's code, or held. -/
inductive PlanOutcome where
  | decided (s : State) (c : Code)
  | held

/-- The range, hold and apply steps for a record whose contents have been read (R177). -/
def decideRecord {α : Type} (s : State) (id : RecordId) (parsed : Option α) (apply : α → State × Code) : PlanOutcome :=
  match parsed with
  | none => .decided s .range
  | some r => if busy s id then .held else let (s, c) := apply r; .decided s c

/-- The outcome of one staged record (R177, R178). -/
def decideEntry (s : State) (id : RecordId) (d : Burst) : PlanOutcome :=
  match id with
  | .floor => decideRecord s id (parseFloor d) fun r => (s.applyFloor r, .applied)
  | .view v => decideRecord s id (parseView d) fun r => (s.applyView v r, .applied)
  | .turret t => decideRecord s id (parseTurret d) fun r => (s.applyTurret t r, .applied)
  | .program c => decideRecord s id (parseProgram d) fun r => (s.applyProgram c r, .applied)
  | .group g => decideRecord s id (parseGroup d) fun r => s.applyGroup g r
  | .source i => decideRecord s id (parseSource d) fun r => (s.applySource i r, .applied)
  | .recipe u => decideRecord s id (parseRecipe d) fun r => s.applyRecipe u r
  | .line n => decideRecord s id (parseLine d) fun r => s.applyLine n r
  | .bank0 n =>
    decideRecord s id (parseBank d (s.lineAt n).bank1) fun b => (s.setLine n { s.lineAt n with bank0 := b }, .applied)
  | .bank1 n =>
    decideRecord s id (parseBank d (s.lineAt n).bank0) fun b => (s.setLine n { s.lineAt n with bank1 := b }, .applied)

/-- One staged entry is taken at a close: the state, with its PLAN_RESULT, and the entry where it stays (R176, R178). -/
def State.takeEntry (s : State) (e : Staged) : State × Option Staged :=
  match recordId e.record with
  | none => (s, none)
  | some id =>
    match decideEntry s id e.data with
    | .decided s c => (s.handOn (planNotice s e.record (planTag e.data) c), none)
    | .held =>
      if e.held then (s, some e)
      else (s.handOn (planNotice s e.record (planTag e.data) .held), some { e with held := true })

/-- The entries of the staging list taken in order, each once; the answer is what stays (R176). -/
def State.takeEntries (s : State) : List Staged → State × List Staged
  | [] => (s, [])
  | e :: rest =>
    let (s, kept) := s.takeEntry e
    let (s, more) := s.takeEntries rest
    (s, kept.toList ++ more)

/-- The staging list is taken at a close (R176). -/
def State.takeStaging (s : State) : State :=
  let (t, kept) := s.takeEntries s.plan.staging
  { t with plan.staging := kept }

/-- The floor record that governs the tests of a close: the staged one that the close applies, else the one in force
(R27, R176). -/
def State.closingFloor (s : State) : FloorRec :=
  match s.plan.staging.find? (fun e => e.record == 0) with
  | some e => (parseFloor e.data).getD s.plan.floor
  | none => s.plan.floor

/-! ### Requests -/

/-- Where a request's answer goes (R182). -/
def replyOf (cell : Nat) (d : Burst) : ReplyTo := { cell := cell, ring := field d 1 1, tag := field d 2 2 }

/-- A request answered when taken: its result follows its owner's notices (R183). -/
def answerNow (r : ReplyTo) (kind : RequestKind) (x : State × Code) : State := x.1.result r kind x.2

/-- A SET_TIME stages its seconds (R157). -/
def State.setTime (s : State) (seconds : BitVec 32) : State := { s with recorder.staged := some seconds }

/-- A LEVEL_SNAPSHOT joins the pending snapshot, or the deferred list while a level image is being written (R43). -/
def State.takeSnapshot (s : State) (r : ReplyTo) : State :=
  if s.src.levelImage.isNone then { s with src.snapPending := s.src.snapPending ++ [r] }
  else { s with src.snapDeferred := s.src.snapDeferred ++ [r] }

/-- A STATE_IMAGE joins the pending list, or the deferred list while a state image is being written (R195). -/
def State.takeImage (s : State) (r : ReplyTo) : State :=
  if s.notice.image.isNone then { s with notice.imagePending := s.notice.imagePending ++ [r] }
  else { s with notice.imageDeferred := s.notice.imageDeferred ++ [r] }

/-- A CLEAR_COUNTS waits for the next close (R184). -/
def State.takeClear (s : State) (r : ReplyTo) : State := { s with plan.clears := s.plan.clears ++ [r] }

/-- A FLOOR_RESTART is pending until the next close (R185). -/
def State.takeRestart (s : State) (r : ReplyTo) : State := { s with plan.restart := some r }

/-- The fields of a GROUP_JOIN (11, Cells). -/
def joinRequest (d : Burst) : JoinRequest :=
  { turret := field d 4 1, group := field d 5 1, attach := field d 6 1, talk := yesNo d 7, slot := field d 8 2,
    listenGain := field d 10 2, talkGain := field d 12 2 }

/-- A request goes to its owner, with its fields (R182, step 3). -/
def State.dispatch (s : State) (r : ReplyTo) (d : Burst) : RequestKind → State
  | .lineKey => answerNow r .lineKey (s.lineKey (field d 4 1) (field d 5 1) (field d 6 2))
  | .lineRelease => answerNow r .lineRelease (s.lineRelease (field d 4 1) (field d 5 1) (field d 6 2))
  | .lineHold => answerNow r .lineHold (s.lineHold (field d 4 1) (field d 5 1) (field d 6 2))
  | .groupJoin => answerNow r .groupJoin (s.groupJoin (joinRequest d))
  | .groupLeave => answerNow r .groupLeave (s.groupLeave (field d 4 1) (field d 5 1))
  | .talkKey => answerNow r .talkKey (s.talkKey (field d 4 1) (field d 5 1))
  | .talkUnkey => answerNow r .talkUnkey (s.talkUnkey (field d 4 1) (field d 5 1))
  | .setTime => answerNow r .setTime (s.setTime (BitVec.ofNat 32 (field d 4 4)), .done)
  | .levelSnapshot => s.takeSnapshot r
  | .stateImage => s.takeImage r
  | .clearCounts => s.takeClear r
  | .floorRestart => s.takeRestart r

/-- The plan unit takes a request: kind and reply ring, then the pending restart, then dispatch (R182). DESIGN CHOICE: the result of a
kind that is none of the twelve carries the kind byte as it was taken (R199; log entry 42). -/
def State.takeRequest (s : State) (cell : Nat) (d : Burst) : State :=
  let r := replyOf cell d
  match RequestKind.list[field d 0 1]? with
  | none => s.handOnTo 0 (resultNotice s r (field d 0 1) .badRequest)
  | some k =>
    if 3 < r.ring then s.handOnTo 0 (resultNotice s r k.code .badRequest)
    else if s.plan.restart.isSome then s.result r k .restarting
    else s.dispatch r d k

/-! ### Consumer cells -/

/-- The record unit takes its consumer cell (R153). -/
def State.takeRecordConsumer (s : State) (d : Burst) : State :=
  if field d 0 4 < s.recorder.cap then { s with recorder.consumer := field d 0 4 } else s

/-- The notice unit takes the consumer cell of ring k (R193). -/
def State.takeNoticeConsumer (s : State) (k : Nat) (d : Burst) : State :=
  if field d 0 4 < (s.noticeRing k).cap then s.setRing k { s.noticeRing k with consumer := field d 0 4 } else s

end Sys2Proof.Machine
end

