-- ==== Sys2Proof/Machine/RecordUnit.lean ====
section
/-!
DEFINITION. The record unit: floor time (R155, R156), recovery and the listing of a close (R143 to R147), the placing of
records in the record ring (R149, R150), and the record progress cell (R152).
-/

namespace Sys2Proof.Machine

/-! ### Floor time -/

/-- A second boundary: the seconds take the staged value, or grow by one (R155, R156). -/
def RecordUnit.newSecond (r : RecordUnit) : RecordUnit :=
  { r with seconds := r.staged.getD (r.seconds + 1), staged := none, frameInSecond := 0 }

/-- A second strobe in STROBE mode (R155). -/
def RecordUnit.strobe (r : RecordUnit) : RecordUnit := { r.newSecond with fresh := true }

/-- A close's update of the floor time (R155 in STROBE mode, R156 in FRAMES mode). -/
def RecordUnit.closeTime (r : RecordUnit) : TimeMode → RecordUnit
  | .strobe =>
    if r.fresh then { r with fresh := false } else { r with frameInSecond := min 999 (r.frameInSecond + 1) }
  | .frames => if 999 ≤ r.frameInSecond then r.newSecond else { r with frameInSecond := r.frameInSecond + 1 }

/-- The record unit takes a second strobe, which FRAMES mode ignores (R155, R156). -/
def State.secondStrobe (s : State) : State :=
  if s.plan.floor.timeMode = .strobe then { s with recorder := s.recorder.strobe } else s

/-- The floor time in force for the P that a close begins (R155, R156, R158). -/
def State.updateTime (s : State) : State := { s with recorder := s.recorder.closeTime s.plan.floor.timeMode }

/-! ### Recovery and listing -/

/-- A change of recorder state, with its OUTAGE_BEGIN or OUTAGE_END (R142, R143). -/
def State.setRecorder (s : State) (new : RecorderState) (channel : Option Nat) (frame : FrameNo) : State :=
  let old := s.recorder.status
  ({ s with recorder.status := new } : State).handOn
    { cls := .record, kind := if new = .outage then .outageBegin else .outageEnd
      cause := some (if new = .outage then .ringFull else .ringFree)
      frame := frame, object := channel, old := some old.code, new := some new.code }

/-- The recovery test of a close: an OUTAGE recorder whose free space is at least the margin, or R - 1 where the margin
exceeds it, becomes HEALTHY (R143). -/
def State.recover (s : State) : State :=
  if s.recorder.status = .outage ∧ min s.plan.floor.margin (s.recorder.cap - 1) ≤ s.recorder.free then
    s.setRecorder .healthy none s.P
  else s

/-- The A status of a line record: GUARDED, else the playout status of the far source (R146). -/
def farStatus (s : State) (far : Nat) : AStatus :=
  if (s.source far).handedGuarded then .guarded
  else
    match (s.source far).record.enabled, (s.source far).status with
    | false, _ => .silent
    | true, .present => .present
    | true, .concealed => .concealed
    | true, .silent => .silent

/-- The record of a line for P, with the reads for its A and B parts issued (R145, R146). DESIGN CHOICE: those of the A part
before those of the B part (log entry 38). -/
def State.listLine (s : State) (batch channel n : Nat) : State × PendingRecord :=
  let r := (s.lineAt n).record
  let (s1, a) := s.startJob (.frame r.far)
  let (s2, b) := (s1.cacheSlot r.out).startJob (slotWork s1 r.out)
  (s2,
    { batch := batch, channel := channel, object := .line n, frame := s.P, seconds := s.recorder.seconds
      frameInSecond := s.recorder.frameInSecond, aStatus := farStatus s r.far, stateByte := (s.lineAt n).status.code
      talkers := [], aPart := a, bPart := b })

/-- The record of a group for P, with the reads for its bus value issued (R145, R147). -/
def State.listGroup (s : State) (batch channel g : Nat) : State × PendingRecord :=
  let chosen := selection s g
  let (s1, a) := (s.cacheSelection (128 + g)).startJob (.busValue (countedPairs s (128 + g)))
  let (s2, b) := s1.startJob .zeros
  (s2,
    { batch := batch, channel := channel, object := .group g, frame := s.P, seconds := s.recorder.seconds
      frameInSecond := s.recorder.frameInSecond, aStatus := if chosen = [] then .silent else .present
      stateByte := codeIn GroupKind.list (s.groupAt g).record.kind, talkers := chosen.map (·.source)
      aPart := a, bPart := b })

/-- One channel at the listing: a record where it is bound. -/
def State.listChannel (s : State) (batch c : Nat) : State :=
  match (s.channel c).bound with
  | none => s
  | some (.line n) =>
    let (t, r) := s.listLine batch c n
    { t with recorder.records := t.recorder.records ++ [r] }
  | some (.group g) =>
    let (t, r) := s.listGroup batch c g
    { t with recorder.records := t.recorder.records ++ [r] }

/-- The channels at the listing, in order (R144). DESIGN CHOICE: the reads of one channel's record are issued before those of the
next, R145 asking them all at the listing (log entry 38). -/
def State.listChannels (s : State) (batch : Nat) : List Nat → State
  | [] => s
  | c :: rest => (s.listChannel batch c).listChannels batch rest

/-- The listing of a close: every bound channel in ascending order (R144). A close with a record is a batch, whose
progress cell waits for its records (R152). -/
def State.listRecords (s : State) : State :=
  if (List.range 64).all fun c => (s.channel c).bound.isNone then s
  else
    let batch := s.path.nextId
    let b : Batch := { id := batch, frame := s.P }
    ({ s.tick with recorder.batches := s.recorder.batches ++ [b] } : State).listChannels batch (List.range 64)

/-! ### Placing -/

/-- Floor offset of entry k of the record ring (R150). -/
def recordOffset (k : Nat) : Nat := 0x100000 + k * 96

/-- Floor offset of the record progress cell (the table of 10). -/
def recordProgressOffset : Nat := 0x0B0080

/-- The close of a record has written to the ring, its producer index being `p` after it (R152). -/
def Batch.record (id p : Nat) (b : Batch) : Batch := if b.id = id then { b with wrote := true, producerAfter := p } else b

/-- The closes that have records left, or have written one and wait for the progress cell (R152). -/
def RecordUnit.prune (r : RecordUnit) : RecordUnit :=
  { r with batches := r.batches.filter fun b => b.wrote || r.records.any fun x => x.batch == b.id }

/-- The channel of a listed record is still bound to the object of the listing: it has not been freed since, be it granted to the same
object again (R150). -/
def State.stillBound (s : State) (r : PendingRecord) : Bool := !r.freed && (s.channel r.channel).bound == some r.object

/-- The dropped count of a channel still bound to the object of a listing, else 0 (R150). -/
def State.droppedFor (s : State) (r : PendingRecord) : Nat :=
  if s.stillBound r then (s.channel r.channel).dropped else 0

/-- A channel still bound to the object of a listing takes a dropped count (R150). -/
def State.setDropped (s : State) (r : PendingRecord) (n : Nat) : State :=
  if s.stillBound r then s.setChannel r.channel { s.channel r.channel with dropped := n }
  else s

/-- A record is written to entry p as three full bursts, and p moves on (R148, R150). DESIGN CHOICE: the bursts are issued in their
numbered order, header, A part, B part (R150 numbers them 0 to 2, R168 presents them as issued; log entry 38). -/
def State.writeRecord (s : State) (r : PendingRecord) : State :=
  let p := s.recorder.producer
  let own : Owner := .record r.channel r.batch
  let a := r.aPart.value
  let b := r.bPart.value
  let d := s.droppedFor r
  let s := ((s.issueWrite own (recordOffset p) (encodeHeader r d a b)).issueWrite own (recordOffset p + 32) a).issueWrite
    own (recordOffset p + 64) b
  let s := s.setDropped r 0
  let q := (p + 1) % s.recorder.cap
  { s with recorder.producer := q, recorder.batches := s.recorder.batches.map (Batch.record r.batch q) }

/-- A record is dropped: its channel's count grows, and a HEALTHY recorder enters OUTAGE (R142, R150). -/
def State.dropRecord (s : State) (r : PendingRecord) : State :=
  let s := s.setDropped r (min 65535 (s.droppedFor r + 1))
  if s.recorder.status = .healthy then s.setRecorder .outage (some r.channel) r.frame else s

/-- The first listed record comes to be placed (R145, R150). -/
def State.placeFirst (s : State) : State :=
  match s.recorder.records with
  | [] => s
  | r :: rest =>
    let s := if 1 ≤ s.recorder.free then s.writeRecord r else s.dropRecord r
    { s with recorder := { s.recorder with records := rest }.prune }

/-- The close whose progress cell comes next, where all its records are placed (R152). -/
def RecordUnit.progressDue (r : RecordUnit) : Option Batch :=
  match r.batches with
  | [] => none
  | b :: _ => if r.records.any fun x => x.batch == b.id then none else some b

/-- The record progress cell of a close is written (R152). -/
def State.writeRecordProgress (s : State) (b : Batch) : State :=
  let s := s.issueWrite .recordProgress recordProgressOffset
    (encodeRecordProgress b.producerAfter b.frame s.recorder.status)
  { s with recorder.batches := s.recorder.batches.filter fun x => x.id != b.id }

end Sys2Proof.Machine
end

