-- ==== Sys2Proof/Machine/Images.lean ====
section
/-!
DEFINITION. The level image (R43, R44) and the state image (R195): their bytes (11, Images), their capture at a close, and
their completion.
-/

namespace Sys2Proof.Machine

/-! ### The level image -/

/-- A yes/no value as a number. -/
def flagBit (b : Bool) : Nat := if b then 1 else 0

/-- The level image entry of a source: zeros for a disabled or TONE source (R44). DESIGN CHOICE: bits 2 to 7 of byte 4, which the table
neither names nor marks reserved, are 0 (11, Images; log entry 41). -/
def levelEntry (x : Source) : List Byte :=
  if x.intake then
    le 2 x.det.smoothed ++ le 2 x.det.peak ++ le 1 (flagBit x.det.flag + 2 * flagBit x.det.guarded) ++ le 3 0
  else le 8 0

/-- The bytes of the level image. -/
def levelImageBytes (s : State) : List Byte := (List.range 384).flatMap fun i => levelEntry (s.source i)

/-! ### The state image -/

/-- The floor section's one entry. DESIGN CHOICE: in this entry and those below, bytes that the table does not name are 0 (11, Images;
log entry 41). -/
def floorEntry (s : State) : List Byte :=
  le 4 s.src.F.toNat ++ le 4 s.P.toNat ++ le 4 s.path.partialWrites.toNat ++ le 4 s.path.memoryFaults.toNat
    ++ le 4 s.recorder.producer ++ le 4 s.recorder.consumer ++ le 4 s.recorder.seconds.toNat
    ++ le 2 s.recorder.frameInSecond ++ le 1 s.recorder.status.code ++ le 1 0

/-- The entry of line n. DESIGN CHOICE: bits 1 to 7 of its two yes/no bytes, 0 and 3, of which 11 gives only bit 0, are 0 (11, Images; log
entry 41). -/
def lineEntry (s : State) (n : Nat) : List Byte :=
  let l := s.lineAt n
  le 1 (flagBit l.record.enabled) ++ le 1 l.status.code ++ le 1 l.joined.length ++ le 1 (flagBit l.holdPlaced)
    ++ ((List.range 4).flatMap fun i => optByte l.joined[i]?) ++ optByte (s.channelOf (.line n)) ++ le 7 0

/-- The entry of turret t. -/
def turretEntry (s : State) (t : Nat) : List Byte :=
  le 1 (codeIn Presence.list (s.turret t).presence) ++ le 1 0 ++ le 2 (s.turret t).run

/-- The entry of handset h: the object kind, and the number, which is none for NONE (log entry 28). -/
def occupancyEntry (s : State) (h : Nat) : List Byte :=
  match s.occupancy h with
  | .vacant => le 1 0 ++ optByte none
  | .line n => le 1 1 ++ le 1 n
  | .group g => le 1 2 ++ le 1 g

/-- The 64-bit set of turrets of the members that satisfy a test. -/
def memberSet (x : Group) (p : Member → Bool) : Nat :=
  ((List.range 64).map fun t => if x.members.any (fun m => m.turret == t && p m) then 2 ^ t else 0).sum

/-- The entry of group g. DESIGN CHOICE: bits 1 to 7 of its yes/no byte, 0, of which 11 gives only bit 0, are 0 (11, Images; log entry
41). -/
def groupEntry (s : State) (g : Nat) : List Byte :=
  let x := s.groupAt g
  le 1 (flagBit x.record.enabled) ++ le 1 x.memberCount ++ le 1 x.talkerCount ++ optByte (s.channelOf (.group g))
    ++ le 8 (memberSet x fun _ => true) ++ le 8 (memberSet x (·.keyed)) ++ le 12 0

/-- The entry of source i. DESIGN CHOICE: bits 2 to 7 of byte 0, which the table neither names nor marks reserved, are 0 (log entry 41);
and a source disabled by a record of kind TONE reports the counts it kept, as a disabled source
does, and not 0, as a TONE source does (11, Images; log entry 31). -/
def sourceEntry (s : State) (i : Nat) : List Byte :=
  let x := s.source i
  le 1 (flagBit x.record.enabled + 2 * flagBit x.handedGuarded) ++ le 1 (codeIn SourceKind.list x.record.kind)
    ++ le 1 (codeIn Playout.list x.status) ++ le 1 0
    ++ le 4 x.arrivals.onTime.toNat ++ le 4 x.arrivals.late.toNat ++ le 4 x.arrivals.early.toNat
    ++ le 4 x.arrivals.stale.toNat ++ le 4 x.arrivals.duplicate.toNat ++ le 4 x.arrivals.gatherBroken.toNat
    ++ le 4 x.plays.present.toNat ++ le 4 x.plays.concealed.toNat ++ le 4 x.plays.silent.toNat

/-- The entry of channel c: for a free one the object number is none (log entry 28) and the dropped count 0. -/
def channelEntry (s : State) (c : Nat) : List Byte :=
  match (s.channel c).bound with
  | none => le 1 0 ++ le 1 0 ++ optHalf none ++ le 4 0
  | some o => le 1 o.kindCode ++ le 1 0 ++ le 2 o.number ++ le 2 (s.channel c).dropped ++ le 2 0

/-- The bytes of the state image, section after section. -/
def stateImageBytes (s : State) : List Byte :=
  floorEntry s ++ (List.range 128).flatMap (lineEntry s) ++ (List.range 64).flatMap (turretEntry s)
    ++ (List.range 128).flatMap (occupancyEntry s) ++ (List.range 32).flatMap (groupEntry s)
    ++ (List.range 384).flatMap (sourceEntry s) ++ (List.range 64).flatMap (channelEntry s)

/-! ### Capture -/

/-- Full bursts issued one after another from a floor offset on (R195). -/
def State.issueBursts (s : State) (o : Owner) (offset : Nat) : List Burst → State
  | [] => s
  | d :: rest => (s.issueWrite o offset d).issueBursts o (offset + 32) rest

/-- The peak is reset (R44). -/
def Source.resetPeak (x : Source) : Source := { x with det := { x.det with peak := 0 } }

/-- A pending snapshot is served at a close where no level image is being written (R44). DESIGN CHOICE: all 96 bursts are issued
at that close, in ascending address, so that every burst the part issues later is presented behind them (R168; log entry 38). -/
def State.captureLevels (s : State) : State :=
  if s.src.snapPending ≠ [] ∧ s.src.levelImage.isNone then
    let t := s.issueBursts .levelImage 0x0B1000 (cutBursts 96 (levelImageBytes s))
    { t with
      src.levelImage := some { frame := s.P, served := s.src.snapPending }
      src.snapPending := []
      src.sources := t.src.sources.map fun _ x => x.resetPeak }
  else s

/-- A pending state image is served at a close where none is being written (R195). DESIGN CHOICE: all 609 bursts are issued at that
close, in ascending address and after those of a level image of the same close, so that every burst the part issues later (a
notice, a home write) is presented behind them (R168; log entry 38). -/
def State.captureState (s : State) : State :=
  if s.notice.imagePending ≠ [] ∧ s.notice.image.isNone then
    let t := s.issueBursts .stateImage 0x0B2000 (cutBursts 609 (stateImageBytes s))
    { t with
      notice.image := some { frame := s.P, served := s.notice.imagePending }
      notice.imagePending := [] }
  else s

/-! ### Completion -/

/-- IMAGE_DONE: object 0 for the level image, 1 for the state image, the captured P, cause FAULT after a fault (R195). -/
def imageDone (object : Nat) (j : ImageJob) : Notice :=
  { cls := .result, kind := .imageDone, cause := if j.fault then some .fault else none, frame := j.frame
    object := some object }

/-- The level image is complete: IMAGE_DONE, the results, and the deferred requests become pending (R43, R44). -/
def State.finishLevels (s : State) : State :=
  match s.src.levelImage with
  | none => s
  | some j =>
    let s := (s.handOn (imageDone 0 j)).results .levelSnapshot j.served
    { s with
      src.levelImage := none
      src.snapPending := s.src.snapPending ++ s.src.snapDeferred
      src.snapDeferred := [] }

/-- The state image is complete: IMAGE_DONE, the results, and the deferred requests become pending (R195). -/
def State.finishState (s : State) : State :=
  match s.notice.image with
  | none => s
  | some j =>
    let s := (s.handOn (imageDone 1 j)).results .stateImage j.served
    { s with
      notice.image := none
      notice.imagePending := s.notice.imagePending ++ s.notice.imageDeferred
      notice.imageDeferred := [] }

end Sys2Proof.Machine
end

