-- ==== Sys2Proof/Machine/Ops.lean ====
section
/-!
DEFINITION. The named operations of the path switch: what a block is handed (R163, R165), memory's answers (R165 to R170),
and the taking of a master burst by its address (R6, R161 to R164).
-/

namespace Sys2Proof.Machine

/-! ### Memory's answers -/

/-- The contents of a write that memory answered OK go to the owning block (R163, R165). While RESET is asserted, and after a
release at which DECODE_EN was sampled low, the path switch hands no burst to any block, one taken before among them (R162, log
entries 15 and 20). -/
def State.hand (s : State) (h : Hand) (d : Burst) : State :=
  if s.path.active then
    match h with
    | .nobody => s
    | .inbound n => s.takeInbound n d
    | .request cell => s.takeRequest cell d
    | .noticeConsumer k => s.takeNoticeConsumer k d
    | .recordConsumer => s.takeRecordConsumer d
    | .plan r => s.takePlan r d
  else s

/-- The data of a burst write. -/
def BurstOp.written : BurstOp → Option Burst
  | .read => none
  | .write d _ => some d

/-- A forwarded burst is answered: memory's response goes to its entry, and a taken write answered OK to its block (R165,
R167). -/
def State.answerMaster (s : State) (m entry : Nat) (h : Hand) (op : BurstOp) (ok : Bool) (d : Burst) : State :=
  match ok, op with
  | true, .read => s.answerEntry m entry (some (.okData d))
  | true, .write w _ => (s.answerEntry m entry (some .ok)).hand h w
  | false, _ => s.answerEntry m entry (some .error)

/-- Every use of the mix receives the frame that memory returned for a source (R67, R68). -/
def State.receive (s : State) (source job : Nat) (ok : Bool) (d : Burst) : State :=
  { s with
    mix.listens := s.mix.listens.map fun l => { l with job := l.job.receive source job ok d }
    recorder.records := s.recorder.records.map fun r =>
      { r with aPart := r.aPart.receive source job ok d, bPart := r.bPart.receive source job ok d } }

/-- What an answer is for, by the burst's owner; `d` is what memory holds at the burst's address (R167, R169). -/
def State.answerOwner (s : State) (f : Flight) (ok : Bool) (d : Burst) : State :=
  match f.owner with
  | .master m entry h => s.answerMaster m entry h f.op ok d
  | .homeWrite _ m entry => s.answerEntry m entry none
  | .homeRead _ m entry order => s.answerEntry m entry (some (.okData (if ok then order.convert d else 0)))
  | .jobRead source job => s.receive source job ok d
  | .levelImage => if ok then s else { s with src.levelImage := s.src.levelImage.map ImageJob.faulty }
  | .stateImage => if ok then s else { s with notice.image := s.notice.image.map ImageJob.faulty }
  | .signal _ | .notice .. | .noticeProgress _ | .abandonedImage | .record .. | .recordProgress => s

/-- After an answer to a burst of an image: where it was the last, the image is complete (R44, R195). While RESET is asserted the
blocks are held (log entry 15). -/
def State.completeImage (s : State) (o : Owner) : State :=
  if s.running && s.path.unanswered.all (fun f => f.owner != o) then
    match o with
    | .levelImage => s.finishLevels
    | .stateImage => s.finishState
    | _ => s
  else s

/-- Memory answers one burst: memory takes a write's effect, the burst is in flight no longer, its answer goes where it
belongs, an ERROR on one of the part's own is counted, and the last answer of an image completes it (R44, R168 to R170, R195). DESIGN
CHOICE: the MEMORY_FAULT of an image's last burst before its IMAGE_DONE (log entry 12). -/
def State.settle (s : State) (f : Flight) (ok : Bool) : State :=
  let d := readBurst s.mem f.addr
  let s : State := { s with mem := memoryAfter s.mem f ok, path := s.path.without f.id }
  let s := s.answerOwner f ok d
  (if f.owner.isOwn && !ok then s.countFault f.owner else s).completeImage f.owner

/-- Bursts answered in order, each with its answer. -/
def State.settleAll (s : State) : List (Flight × Bool) → State
  | [] => s
  | (f, ok) :: rest => (s.settle f ok).settleAll rest

/-- Memory answers burst `id`: it has been presented by then, and the earlier bursts to its address were answered before
it, with OK (R168, log entry 10). -/
def State.answerFlight (s : State) (id : Nat) (ok : Bool) : State :=
  let p := s.path.presentUntil (s.path.ownWait.length + s.path.fwdWait.length) id
  ({ s with path := p } : State).settleAll ((p.answeredWith id).map fun f => (f, f.id != id || ok))

/-- Memory answers bursts OK, in order; one that it has answered by then is passed over. -/
def State.answerAll (s : State) : List Nat → State
  | [] => s
  | id :: rest => (s.answerFlight id true).answerAll rest

/-- Memory answers the n-th oldest unanswered burst whose owner satisfies a test, where there is one. -/
def State.answerNth (s : State) (p : Owner → Bool) (n : Nat) (ok : Bool) : State :=
  match (s.unanswered p)[n]? with
  | some id => s.answerFlight id ok
  | none => s

/-- Memory has answered OK every burst that satisfies a test. -/
def State.answerEvery (s : State) (p : Flight → Bool) : State := s.answerAll ((s.path.unanswered.filter p).map (·.id))

/-! ### The areas of the floor region -/

/-- The areas of the floor region, as R163 tells them apart. -/
inductive Area where
  /-- The views area. -/
  | views
  /-- Home position of a source. -/
  | home (source : Nat)
  /-- A cell whose full writes are taken by a block and whose partial writes are counted. -/
  | cell (h : Hand)
  /-- A plan record. -/
  | plan (r : Nat)
  /-- An area that the part writes. -/
  | own
  /-- An area that is forwarded. -/
  | free
  deriving DecidableEq, Repr

/-- The area of a floor offset (the table of 08, and the offsets of 04, 09, 10). -/
def areaOf (o : Nat) : Area :=
  if o < 0x080000 then .views
  else if o < 0x098000 then .home ((o - 0x080000) / 256)
  else if o < 0x09A000 then if o % 64 < 32 then .cell (.inbound ((o - 0x098000) / 64)) else .own
  else if o < 0x09C000 then .cell (.request ((o - 0x09A000) / 32))
  else if o < 0x09C080 then .cell (.noticeConsumer ((o - 0x09C000) / 32))
  else if o < 0x09C0A0 then .cell .recordConsumer
  else if o < 0x0A0000 then .free
  else if o < 0x0B0000 then .plan ((o - 0x0A0000) / 32)
  else if o < 0x0E0000 then .own
  else if o < 0x100000 then .free
  else if o < 0x700000 then .own
  else .free

/-! ### Taking a master burst -/

/-- A burst answered ERROR: it does not reach memory and changes no state but the queue (R6, R163). -/
def State.refuse (s : State) (m : Nat) : State :=
  s.tick.appendEntry m { id := s.path.nextId, awaiting := 0, response := .error }

/-- A burst goes to memory unchanged, and its entry awaits memory's answer; `h` is the block that is handed a write
answered OK (R161, R163, R167). -/
def State.forward (s : State) (m addr : Nat) (op : BurstOp) (h : Hand) : State :=
  let id := s.path.nextId
  let f : Flight := { id := id, addr := addr, op := op, owner := .master m id h }
  ({ s.tick with path.fwdWait := s.path.fwdWait ++ [f] } : State).appendEntry m
    { id := id, awaiting := 1, response := .ok }

/-- A read of a direct view's talk half: the source unit's own read of the home position (R9). -/
def State.homeRead (s : State) (m source q : Nat) (order : ByteOrder) : State :=
  let entry := s.path.nextId
  (s.tick.issue (.homeRead source m entry order) (homeOffset source q) .read).appendEntry m
    { id := entry, awaiting := 1, response := .ok }

/-- A listen read of a slot (R10, R65 to R67): zeros at once during CLOCK_LOST; else the mix for the P now in force, at
once where it needs no read of memory. -/
def State.listenRead (s : State) (m u : Nat) (order : ByteOrder) : State :=
  if s.src.clockLost then s.tick.appendEntry m { id := s.path.nextId, awaiting := 0, response := .okData 0 }
  else
    let s1 := s.cacheSlot u
    let (s2, job) := s1.startJob (slotWork s1 u)
    let entry := s2.path.nextId
    if readsOf s1 job.work = [] then
      s2.tick.appendEntry m { id := entry, awaiting := 0, response := .okData (order.convert job.value) }
    else
      let l : ListenRead := { job := job, master := m, entry := entry, order := order }
      ({ s2.tick with mix.listens := s2.mix.listens ++ [l] } : State).appendEntry m
        { id := entry, awaiting := 1, response := .ok }

/-- A burst in the talk half of an enabled view, at talk-half offset `o` inside its channels (R6, R7, R9, R17). -/
def State.talkHalf (s : State) (m v o : Nat) (op : BurstOp) : State :=
  let r := (s.view v).record
  match op with
  | .read =>
    if r.width = 1 then s.homeRead m (r.talkBase + o / 256) (o % 256 / 32) r.order else s.refuse m
  | .write d en =>
    if en ≠ Enables.full then s.refuse m
    else if r.width = 1 then s.talkWrite m (r.talkBase + o / 256) (o % 256 / 32) (r.order.convert d)
    else
      let g := o / (r.width * 256)
      let w := o % (r.width * 256)
      s.gatherWrite m v g (w / (r.width * 32)) (w % (r.width * 32) / 32) (r.order.convert d)

/-- A burst in the views area, by the half it falls in and the view record in force (R6). -/
def State.viewBurst (s : State) (m o : Nat) (op : BurstOp) : State :=
  let v := o / 16384
  let r := (s.view v).record
  let w := o % 8192
  if ¬ r.enabled then s.refuse m
  else if o % 16384 < 8192 then if w < r.channels * 256 then s.talkHalf m v w op else s.refuse m
  else
    match op with
    | .read => if w < r.channels * 32 then s.listenRead m (r.listenBase + w / 32) r.order else s.refuse m
    | .write .. => s.refuse m

/-- A partial write of a taken cell is counted (R165). -/
def State.countPartial (s : State) : State := { s with path.partialWrites := s.path.partialWrites + 1 }

/-- A burst in the floor region, treated by its area and kind (R163, R164). -/
def State.takeInside (s : State) (m addr o : Nat) (op : BurstOp) : State :=
  match areaOf o, op with
  | .views, _ => s.viewBurst m o op
  | .home _, .read => s.forward m addr op .nobody
  | .home source, .write .. => if (s.source source).intake then s.refuse m else s.forward m addr op .nobody
  | .cell _, .read => s.forward m addr op .nobody
  | .cell h, .write _ en =>
    if en = Enables.full then s.forward m addr op h else s.countPartial.forward m addr op .nobody
  | .plan _, .read => s.forward m addr op .nobody
  | .plan r, .write d en =>
    if en = Enables.full then s.forward m addr op (.plan r)
    else (s.forward m addr op .nobody).takePartialPlan r d en
  | .own, .read => s.forward m addr op .nobody
  | .own, .write .. => s.refuse m
  | .free, _ => s.forward m addr op .nobody

/-- An address lies in the floor region that the path switch decodes (R161, R162). -/
def PathSwitch.decodes (p : PathSwitch) (addr : Nat) : Bool := p.active && addr / 2 ^ 24 == p.base.toNat

/-- The path switch takes a burst of a master, unless its queue is full (R161, R166, log entry 18). -/
def State.takeBurst (s : State) (m addr : Nat) (op : BurstOp) : State :=
  if s.queueFull m then s
  else if s.path.decodes addr then s.takeInside m addr (addr % 2 ^ 24) op
  else s.forward m addr op .nobody

/-- A burst taken, and memory's answer to it where it is forwarded (log entry 21). -/
def State.takeAnswered (s : State) (m addr : Nat) (op : BurstOp) (ans : MemAnswer) : State :=
  let id := s.path.nextId
  let t := s.takeBurst m addr op
  match ans with
  | .later => t
  | .ok => if t.path.fwdWait.any fun f => f.id == id then t.answerFlight id true else t
  | .error => if t.path.fwdWait.any fun f => f.id == id then t.answerFlight id false else t

/-! ### Uses of the mix that wait for memory -/

/-- A read made for one of some uses of the mix. -/
def Flight.reads (jobs : List Nat) (f : Flight) : Bool :=
  match f.owner with
  | .jobRead _ job => jobs.contains job
  | _ => false

/-- The n-th listen read in flight completes: memory has answered its reads, and the mix becomes its response (R65). -/
def State.completeListen (s : State) (n : Nat) : State :=
  match s.mix.listens[n]? with
  | none => s
  | some l =>
    let s := s.answerEvery (Flight.reads [l.job.id])
    match s.mix.listens.find? (fun k => k.job.id == l.job.id) with
    | none => s
    | some l =>
      ({ s with mix.listens := s.mix.listens.filter fun k => k.job.id != l.job.id } : State).answerEntry l.master l.entry
        (some (.okData (l.order.convert l.job.value)))

/-- The first listed record comes to be placed: memory has answered its reads (R145, R150). -/
def State.placeRecord (s : State) : State :=
  match s.recorder.records with
  | [] => s
  | r :: _ => (s.answerEvery (Flight.reads [r.aPart.id, r.bPart.id])).placeFirst

/-- A burst of a record of one close. -/
def Flight.recordOf (batch : Nat) (f : Flight) : Bool :=
  match f.owner with
  | .record _ b => b == batch
  | _ => false

/-- The record progress cell that comes next is written: memory has answered every burst of its close's records (R152). -/
def State.recordProgress (s : State) : State :=
  match s.recorder.progressDue with
  | none => s
  | some b => (s.answerEvery (Flight.recordOf b.id)).writeRecordProgress b

/-! ### Notice progress and images -/

/-- How many notices of ring k a published index q would publish: (q - published) mod Nk (R192). -/
def Ring.toPublish (r : Ring) (q : Nat) : Nat := (((q : Int) - r.published) % r.cap).toNat

/-- The progress cell of ring k can be written with q: q is an index of the ring other than the published one, and every
notice below it has been written (R192). -/
def Ring.canPublish (r : Ring) (q : Nat) : Bool :=
  decide (q < r.cap) && decide (0 < r.toPublish q) && decide (r.toPublish q ≤ r.unpublished.length)

/-- A notice write of ring k that is one of some bursts. -/
def Flight.noticeOf (k : Nat) (bursts : List (Option Nat)) (f : Flight) : Bool :=
  match f.owner with
  | .notice ring _ => ring == k && bursts.contains (some f.id)
  | _ => false

/-- Memory has answered every notice write of ring k below q: the progress cell is written with q and F, and q becomes the
published index (R192). The writes below q are those of the first notices not yet published, and no other burst to the ring's
entries is one of them: neither one issued before the ring was emptied (R196), nor one of a later round of the ring. -/
def State.publish (s : State) (k q : Nat) : State :=
  let r := s.noticeRing k
  if r.canPublish q then
    let n := r.toPublish q
    let s := s.answerEvery (Flight.noticeOf k (r.unpublished.take n))
    let s := s.issueWrite (.noticeProgress k) (noticeProgressOffset k) (encodeNoticeProgress q s.src.F)
    s.setRing k { s.noticeRing k with published := q, unpublished := (s.noticeRing k).unpublished.drop n }
  else s

/-- Memory answers the bursts of the level image that it has not answered, and the image is complete (R44): with the last answer, or,
where no burst of it is in flight, by this command. -/
def State.levelsDone (s : State) : State :=
  if s.src.levelImage.isSome then (s.answerEvery fun f => f.owner == .levelImage).finishLevels else s

/-- Memory answers the bursts of the state image that it has not answered, and the image is complete (R195), as the level image. -/
def State.stateDone (s : State) : State :=
  if s.notice.image.isSome then (s.answerEvery fun f => f.owner == .stateImage).finishState else s

end Sys2Proof.Machine
end

