-- ==== Sys2Proof/Machine/Close.lean ====
section
/-!
DEFINITION. The frame close (R1) with the work of every block in order, the floor restart (R71, R102, R113, R137, R160,
R185, R186, R196), the served counts (R184), and the entry to CLOCK_LOST (R3, R196).
-/

namespace Sys2Proof.Machine

/-! ### CLOCK_LOST -/

/-- A notice of class FLOOR that carries F (R196). -/
def clockNotice (s : State) (kind : NoticeKind) : Notice := { cls := .floor, kind := kind, frame := s.src.F }

/-- The source unit enters CLOCK_LOST, with its notice carrying the frozen F (R3, R196). -/
def State.loseClock (s : State) : State :=
  let t : State := { s with src.clockLost := true }
  t.handOn (clockNotice t .clockLost)

/-- The strobe that ends CLOCK_LOST gives CLOCK_RESTORED, carrying the F it makes (R3, R196). -/
def State.restoreClock (s : State) : State :=
  if s.src.clockLost then
    let t : State := { s with src.clockLost := false }
    t.handOn (clockNotice t .clockRestored)
  else s

/-! ### The floor restart -/

/-- A line after a restart: its record and banks kept, every state field cleared (R102). -/
def Line.restart (l : Line) : Line := { record := l.record, bank0 := l.bank0, bank1 := l.bank1 }

/-- A view after a restart: its record kept, its gather slots empty (R28). -/
def View.restart (v : View) : View := { record := v.record }

/-- A source after a restart: its record kept; tags, level tags, counts and detection cleared (R28, R46). -/
def Source.restart (x : Source) : Source := { record := x.record }

/-- A turret after a restart: its record kept, UNKNOWN with silence run 0 (R28). -/
def Turret.restart (x : Turret) : Turret := { record := x.record }

/-- A group after a restart: its record kept, no members, no latches (R137). -/
def Group.restart (x : Group) : Group := { record := x.record }

/-- The source unit after a restart: the lag of the floor record in force (R2, R28). -/
def SourceUnit.restart (x : SourceUnit) (lag : Nat) : SourceUnit :=
  { x with
    lag := lag
    views := x.views.map fun _ v => v.restart
    sources := x.sources.map fun _ i => i.restart
    turrets := x.turrets.map fun _ t => t.restart }

/-- The record unit after a restart: channels free, HEALTHY, ring empty with the capacity in force, earlier records and
progress cells abandoned; the floor time is kept (R138, R142, R158, R160). -/
def RecordUnit.restart (r : RecordUnit) (cap : Nat) : RecordUnit :=
  { r with channels := {}, status := .healthy, cap := cap, producer := 0, consumer := 0, records := [], batches := [] }

/-- The state cleared by a restart, before the bursts and the notice it writes (R186, step 1). -/
def State.restartState (s : State) : State :=
  { s with
    src := s.src.restart s.plan.floor.lag
    mix := s.mix.restart
    line := { lines := s.line.lines.map fun _ l => l.restart, occupancy := {} }
    ring := { s.ring with players := {} }
    group := { groups := s.group.groups.map fun _ g => g.restart }
    recorder := s.recorder.restart s.plan.floor.recordCap
    path.partialWrites := 0
    path.memoryFaults := 0 }

/-- The enabled lines, of the 128. -/
def enabledLines (s : State) : List Nat := (List.range 128).filter fun n => (s.lineAt n).record.enabled

/-- Outbound cells written, in the order of the list (R77). -/
def State.writeOutbounds (s : State) : List Nat → State
  | [] => s
  | n :: rest => (s.writeOutbound n).writeOutbounds rest

/-- A notice ring is emptied, with the capacity in force, and its progress cell is written with 0 and F (R196). -/
def State.emptyRing (s : State) (k : Nat) : State :=
  (s.setRing k { cap := s.plan.floor.noticeCap k }).issueWrite (.noticeProgress k) (noticeProgressOffset k)
    (encodeNoticeProgress 0 s.src.F)

/-- The clearing of a floor restart (R186, step 1): the live state, CLEAR in the outbound cells of enabled lines (R102), the
progress cells (R160, R196), and FLOOR_RESTARTED. DESIGN CHOICE: the bursts are issued in this order: CLEAR for the enabled
lines in ascending number, the record progress cell, the notice progress cells 0 to 3, then the notices (R168; log entry 38). -/
def State.restartClear (s : State) : State :=
  let s := s.restartState
  let s := s.writeOutbounds (enabledLines s)
  let s := s.issueWrite .recordProgress recordProgressOffset (encodeRecordProgress 0 s.P s.recorder.status)
  let s := (((s.emptyRing 0).emptyRing 1).emptyRing 2).emptyRing 3
  s.handOn (clockNotice s .floorRestarted)

/-! ### The work of a close -/

/-- F advances, the fault notice mark is cleared (R1, R170), and CLOCK_LOST ends (R3). -/
def State.beginClose (s : State) : State :=
  ({ s with src.F := s.src.F + 1, path.faultMark := false } : State).restoreClock

/-- The pending edits take force (R57, R59), or a pending restart is carried out (R185). -/
def State.closeEdits (s : State) : State :=
  if s.plan.restart.isSome then s.restartClear else { s with mix := s.mix.applyEdits }

/-- The arrival and playout counts of a source are cleared (R184). -/
def Source.clearCounts (x : Source) : Source := { x with arrivals := {}, plays := {} }

/-- The counts that the CLEAR_COUNTS requests taken since the last close clear (R184). -/
def State.clearCounts (s : State) : State :=
  if s.plan.clears = [] then s
  else
    { s with
      src.sources := s.src.sources.map fun _ x => x.clearCounts
      path.partialWrites := 0
      path.memoryFaults := 0 }

/-- The turrets that this close makes LOST: those whose run, one higher, is at least the limit (R27). -/
def losingTurrets (s : State) (limit : Nat) : List Nat :=
  (List.range 64).filter fun t => (s.turret t).grow.due limit

/-- The loss of a turret taken before the staging list: its run grows, and the loss is taken (R27, R178). -/
def State.loseGrown (s : State) (t : Nat) : State := (s.setTurret t (s.turret t).grow).loseTurret t

/-- The losses of turrets taken before the staging list, in order. -/
def State.loseEarly (s : State) (l : List Nat) : State := l.foldl State.loseGrown s

/-- The losses taken before the staging list, where the close's order says so. -/
def State.earlyLosses (s : State) (o : CloseOrder) : List Nat :=
  if o.loss = .beforeStaging then losingTurrets s s.closingFloor.lossLimit else []

/-- Every turret's silence run grows, but for those that grew and were LOST earlier in the close and keep their record
(R27, log entry 25). -/
def State.growTurrets (s : State) (early : List Nat) : State :=
  { s with src.turrets := s.src.turrets.map fun t x => if early.contains t ∧ x.presence = .lost then x else x.grow }

/-- The losses of turrets, where the close's order puts them at this moment (R131, R144). -/
def State.losses (s : State) (o : CloseOrder) (moment : LossMoment) : State :=
  if o.loss = moment then s.takeLosses s.plan.floor.lossLimit (List.range 64) else s

/-- The line counts and limits, where the close's order puts them at this moment (R101, R144). DESIGN CHOICE: before or after
the listing, and always after the staging list (log entry 11). -/
def State.lineWork (s : State) (o : CloseOrder) (afterListing : Bool) (ringing : List Nat) : State :=
  if o.timeoutsAfterListing = afterListing then s.lineCloses ringing (List.range 128) else s

/-- The results of the CLEAR_COUNTS requests, then that of the restart, which is then no longer pending (R184, R186). -/
def State.closeResults (s : State) : State :=
  let s := s.results .clearCounts s.plan.clears
  let s : State := { s with plan.clears := [] }
  match s.plan.restart with
  | none => s
  | some r =>
    let s := s.result r .floorRestart .done
    { s with plan.restart := none }

/-- From the edits to the source unit's work: the counts cleared, the staging list taken, playout decided, detection and
presence stepped (R20, R27, R31, R176, R184). -/
def State.closeIntake (s : State) (o : CloseOrder) : State :=
  let s := s.clearCounts
  let early := s.earlyLosses o
  ((s.loseEarly early).takeStaging.closeSources).growTurrets early

/-- The players, the floor time, the keys and latches, with the losses before the timeouts or before the latches where the
close's order puts them there (R106, R128, R129, R131, R155, R156). DESIGN CHOICE: the key timeouts always after the staging
list (log entry 11). -/
def State.closeControl (s : State) (o : CloseOrder) (running : List Nat) : State :=
  ((((s.stepPlayers running).updateTime.losses o .beforeTimeouts).keyCloses (List.range 32)).losses o
    .beforeLatches).formLatches

/-- The recovery test and the listing, with the lines' limits and the losses before or after them (R101, R131, R143,
R144). DESIGN CHOICE: where both fall before the listing the losses are taken before the ring limits and release timeouts, and where
both fall after it the limits before the losses; it decides whether a second ring asks a term at a turret that the same close makes
LOST (R93, R110; log entry 11). -/
def State.closeRecords (s : State) (o : CloseOrder) (ringing : List Nat) : State :=
  let s := (s.losses o .beforeListing).lineWork o false ringing
  ((s.recover.listRecords).lineWork o true ringing).losses o .afterListing

/-- The frame close (R1): every block's work for the P it begins, then the results and the captures (R44, R186, R195). DESIGN
CHOICE: the level image's bursts before the state image's (log entry 38). -/
def State.close (s : State) (o : CloseOrder) : State :=
  let s := s.beginClose.closeEdits
  let ringing := ringingLines s
  let running := runningPlayers s
  ((((s.closeIntake o).closeControl o running).closeRecords o ringing).closeResults).captureLevels.captureState

end Sys2Proof.Machine
end

