-- ==== Sys2Proof/Machine/ResetClock.lean ====
section
/-!
DEFINITION. The commands of the RESET, FS and SS pins: RESET_ASSERT, RESET_RELEASE, FRAME_CLOSE, CLOCK_LOST, SECOND_STROBE.
-/

namespace Sys2Proof.Machine

/-- Every command begins with nothing returned: `returned` holds the responses of the last command (log entry 7). -/
def State.ready (s : State) : State := { s with path.returned := [] }

/-- The RESET input is asserted: the path switch forwards every burst and hands none to a block (R162). -/
def execResetAssert (s : State) : Host.Outcome State Fault Refusal :=
  .next { s.ready with path.resetAsserted := true }

/-- A burst in flight at the release of RESET: it completes as it was begun, but an image's burst belongs to no image of the
part any more (R162). -/
def Flight.overReset (f : Flight) : Flight :=
  match f.owner with
  | .levelImage | .stateImage => { f with owner := .abandonedImage }
  | _ => f

/-- The path switch after a release of RESET: its power-on values (R172), but that the bursts taken or issued before and not
yet answered complete as they were begun, with the entries that wait for them (R162, log entry 20). DESIGN CHOICE: the
alternation of R168 goes on over a release as it stood (`lastOwn`), so that an own burst goes first after one where a forwarded
one went last before it (log entry 4). -/
def PathSwitch.release (p : PathSwitch) (base : BitVec 8) (decodeEn : Bool) : PathSwitch :=
  { base := base
    decodeEn := decodeEn
    queues := p.queues
    ownWait := p.ownWait.map Flight.overReset
    fwdWait := p.fwdWait.map Flight.overReset
    presented := p.presented.map Flight.overReset
    lastOwn := p.lastOwn
    nextId := p.nextId }

/-- RESET is released: the straps are sampled, and every block takes its power-on reset values (R161, R172). The bursts not yet
answered stay in flight, the listen reads among them with the mix they fixed (R162). Memory is not the part's; the queue of
commands and the model's own counter stay (log entry 20). -/
def execResetRelease (base : BitVec 8) (decodeEn : Bool) (s : State) : Host.Outcome State Fault Refusal :=
  .next { State.reset with
    mix.listens := s.mix.listens
    path := s.path.release base decodeEn
    mem := s.mem
    pending := s.pending }

/-- A frame strobe: the close, unless RESET is asserted (R1, R3, log entry 15). -/
def execFrameClose (order : CloseOrder) (s : State) : Host.Outcome State Fault Refusal :=
  .next (if s.running then s.ready.close order else s.ready)

/-- 3 ms without a frame strobe: CLOCK_LOST is entered, where it is not held (R3, log entry 16). -/
def execClockLost (s : State) : Host.Outcome State Fault Refusal :=
  .next (if s.clockRuns then s.ready.loseClock else s.ready)

/-- A strobe on SS (R155, R156), which CLOCK_LOST does not stop (R159). -/
def execSecondStrobe (s : State) : Host.Outcome State Fault Refusal :=
  .next (if s.running then s.ready.secondStrobe else s.ready)

end Sys2Proof.Machine
end

