-- ==== Sys2Proof/Machine/Bursts.lean ====
section
/-!
DEFINITION. The commands of bus masters that are no requests. Each is a burst at the address its operands name, and the path
switch treats it by that address, its kind and the state in force (R6, R161 to R165; log entry 17).
-/

namespace Sys2Proof.Machine

/-- A full burst write. -/
def fullWrite (d : Burst) : BurstOp := .write d Enables.full

/-- The address of a place of 32 bytes in the talk half of a view (R6). -/
def State.talkAddress (s : State) (view place : Nat) : Nat := s.path.address (view * 16384 + place * 32)

/-- The address of a place of 32 bytes in the listen half of a view (R6). -/
def State.listenAddress (s : State) (view place : Nat) : Nat := s.path.address (view * 16384 + 8192 + place * 32)

/-- A burst that is forwarded: taken, presented, or answered by memory (R161, R166, R168). Memory's OK to one of the part's own
bursts is a form of it: its write lands in memory, and what waits for it goes on (R162, R168, R172; log entry 39). -/
def execForwardedBurst (event : ForwardEvent) (s : State) : Host.Outcome State Fault Refusal :=
  match event with
  | .taken m addr op ans => .next (s.ready.takeAnswered m addr.toNat op ans)
  | .presented => .next { s.ready with path := s.ready.path.presentOne }
  | .answered n ok => .next (s.ready.answerNth (fun o => !o.isOwn) n ok)
  | .ownAnswered n => .next (s.ready.answerNth Owner.isOwn n true)

/-- A burst to an area the part writes, or that the view table refuses: answered ERROR when it is taken (R6, R163). -/
def execBurstAnsweredError (m : Master) (addr : BitVec 32) (op : BurstOp) (s : State) :
    Host.Outcome State Fault Refusal :=
  .next (s.ready.takeBurst m addr.toNat op)

/-- A talk write: a full write to a place of a view's talk half (R7, R12 to R16). -/
def execTalkWrite (m : Master) (view : Fin 32) (place : Fin 256) (data : Burst) (s : State) :
    Host.Outcome State Fault Refusal :=
  .next (s.ready.takeBurst m (s.talkAddress view place) (fullWrite data))

/-- A gather burst: a full write to a place of a gather view's talk half (R17 to R19). -/
def execGatherBurst (m : Master) (view : Fin 32) (place : Fin 256) (data : Burst) (s : State) :
    Host.Outcome State Fault Refusal :=
  .next (s.ready.takeBurst m (s.talkAddress view place) (fullWrite data))

/-- A home read: a read of a place of a direct view's talk half (R9). -/
def execHomeRead (m : Master) (view : Fin 32) (place : Fin 256) (s : State) : Host.Outcome State Fault Refusal :=
  .next (s.ready.takeBurst m (s.talkAddress view place) .read)

/-- A listen read: a read of a place of a view's listen half (R10, R65 to R67). -/
def execListenRead (m : Master) (view : Fin 32) (place : Fin 256) (s : State) : Host.Outcome State Fault Refusal :=
  .next (s.ready.takeBurst m (s.listenAddress view place) .read)

/-- A master write of a home position (R164), with memory's answer where it is forwarded. -/
def execSourceHomeWrite (m : Master) (source : Fin 384) (position : Fin 8) (data : Burst) (enables : Enables)
    (ans : MemAnswer) (s : State) : Host.Outcome State Fault Refusal :=
  .next (s.ready.takeAnswered m (s.path.address (homeOffset source position)) (.write data enables) ans)

/-- Floor offset of the inbound cell of line n (R76). -/
def inboundOffset (n : Nat) : Nat := 0x098000 + n * 64

/-- A full write of a line's inbound signal cell, answered OK by memory (R76, R81 to R83, R165). -/
def execInboundSignalWrite (m : Master) (line : Fin 128) (data : Burst) (s : State) :
    Host.Outcome State Fault Refusal :=
  .next (s.ready.takeAnswered m (s.path.address (inboundOffset line)) (fullWrite data) .ok)

/-- A partial write of an inbound signal, request or consumer cell: forwarded, not taken, counted (R165, R171). -/
def execPartialCellWrite (m : Master) (addr : BitVec 32) (data : Burst) (enables : Enables) (ans : MemAnswer)
    (s : State) : Host.Outcome State Fault Refusal :=
  .next (s.ready.takeAnswered m addr.toNat (.write data enables) ans)

/-- Floor offset of the record consumer cell (R153). -/
def recordConsumerOffset : Nat := 0x09C080

/-- A full write of the record consumer cell, answered OK by memory (R153). -/
def execRecordConsumerWrite (m : Master) (data : Burst) (s : State) : Host.Outcome State Fault Refusal :=
  .next (s.ready.takeAnswered m (s.path.address recordConsumerOffset) (fullWrite data) .ok)

/-- Floor offset of the consumer cell of notice ring k (R193). -/
def noticeConsumerOffset (k : Nat) : Nat := 0x09C000 + k * 32

/-- A full write of a notice ring's consumer cell, answered OK by memory (R193). -/
def execNoticeConsumerWrite (m : Master) (ring : Fin 4) (data : Burst) (s : State) : Host.Outcome State Fault Refusal :=
  .next (s.ready.takeAnswered m (s.path.address (noticeConsumerOffset ring)) (fullWrite data) .ok)

/-- Floor offset of a record number's place in the plan area (R173). -/
def planOffset (record : Nat) : Nat := 0x0A0000 + record * 32

/-- A full write to the plan area, answered OK by memory: staged or refused (R173, R174). -/
def execPlanWrite (m : Master) (record : Fin 2048) (data : Burst) (s : State) : Host.Outcome State Fault Refusal :=
  .next (s.ready.takeAnswered m (s.path.address (planOffset record)) (fullWrite data) .ok)

/-- A partial write to the plan area: forwarded, and handed on as partial (R175). -/
def execPlanPartialWrite (m : Master) (record : Fin 2048) (data : Burst) (enables : Enables) (ans : MemAnswer)
    (s : State) : Host.Outcome State Fault Refusal :=
  .next (s.ready.takeAnswered m (s.path.address (planOffset record)) (.write data enables) ans)

end Sys2Proof.Machine
end

