-- ==== Sys2Proof/Machine/Requests.lean ====
section
/-!
DEFINITION. The requests: each is a full write of a request cell that memory answers OK, which the plan unit takes (R165,
R182), laid out as 11 Central Formats gives it.
-/

namespace Sys2Proof.Machine

/-- Floor offset of a request cell (R182). -/
def requestOffset (cell : Nat) : Nat := 0x09A000 + cell * 32

/-- The bytes of a request cell: kind, reply ring, tag, and the fields of the kind (11, Cells). -/
def requestCell (h : RequestHead) (k : RequestKind) (fields : List Byte) : Burst :=
  packBytes (le 1 k.code ++ le 1 h.ring.toNat ++ le 2 h.tag.toNat ++ fields)

/-- A request cell is written whole, and memory answers OK (R165, R182). -/
def State.writeRequest (s : State) (m : Master) (cell : Fin 256) (d : Burst) : State :=
  s.ready.takeAnswered m (s.path.address (requestOffset cell)) (fullWrite d) .ok

/-- The request a head and its fields make, written and taken. -/
def State.request (s : State) (h : RequestHead) (k : RequestKind) (fields : List Byte) : State :=
  s.writeRequest h.master h.cell (requestCell h k fields)

/-- The fields of LINE_KEY, LINE_RELEASE and LINE_HOLD (11, Cells). -/
def lineFields (turret handset : BitVec 8) (line : BitVec 16) : List Byte :=
  [turret, handset] ++ le 2 line.toNat

/-- LINE_KEY (R86 to R91). -/
def execLineKey (head : RequestHead) (turret handset : BitVec 8) (line : BitVec 16) (s : State) :
    Host.Outcome State Fault Refusal :=
  .next (s.request head .lineKey (lineFields turret handset line))

/-- LINE_RELEASE (R92, R93). -/
def execLineRelease (head : RequestHead) (turret handset : BitVec 8) (line : BitVec 16) (s : State) :
    Host.Outcome State Fault Refusal :=
  .next (s.request head .lineRelease (lineFields turret handset line))

/-- LINE_HOLD (R94, R95). -/
def execLineHold (head : RequestHead) (turret handset : BitVec 8) (line : BitVec 16) (s : State) :
    Host.Outcome State Fault Refusal :=
  .next (s.request head .lineHold (lineFields turret handset line))

/-- GROUP_JOIN (R120 to R123). -/
def execGroupJoin (head : RequestHead) (turret group attach talkCap : BitVec 8)
    (listenSlot listenGain talkGain : BitVec 16) (s : State) : Host.Outcome State Fault Refusal :=
  .next (s.request head .groupJoin
    ([turret, group, attach, talkCap] ++ le 2 listenSlot.toNat ++ le 2 listenGain.toNat ++ le 2 talkGain.toNat))

/-- GROUP_LEAVE (R124, R125). -/
def execGroupLeave (head : RequestHead) (turret group : BitVec 8) (s : State) : Host.Outcome State Fault Refusal :=
  .next (s.request head .groupLeave [turret, group])

/-- TALK_KEY (R126). -/
def execTalkKey (head : RequestHead) (turret group : BitVec 8) (s : State) : Host.Outcome State Fault Refusal :=
  .next (s.request head .talkKey [turret, group])

/-- TALK_UNKEY (R127). -/
def execTalkUnkey (head : RequestHead) (turret group : BitVec 8) (s : State) : Host.Outcome State Fault Refusal :=
  .next (s.request head .talkUnkey [turret, group])

/-- SET_TIME (R157). -/
def execSetTime (head : RequestHead) (seconds : BitVec 32) (s : State) : Host.Outcome State Fault Refusal :=
  .next (s.request head .setTime (le 4 seconds.toNat))

/-- LEVEL_SNAPSHOT (R43). -/
def execLevelSnapshot (head : RequestHead) (s : State) : Host.Outcome State Fault Refusal :=
  .next (s.request head .levelSnapshot [])

/-- STATE_IMAGE (R195). -/
def execStateImage (head : RequestHead) (s : State) : Host.Outcome State Fault Refusal :=
  .next (s.request head .stateImage [])

/-- CLEAR_COUNTS (R184). -/
def execClearCounts (head : RequestHead) (s : State) : Host.Outcome State Fault Refusal :=
  .next (s.request head .clearCounts [])

/-- FLOOR_RESTART (R185). -/
def execFloorRestart (head : RequestHead) (s : State) : Host.Outcome State Fault Refusal :=
  .next (s.request head .floorRestart [])

/-- A request cell written with bytes of any value: of an unknown kind or a reply ring above 3 it is refused BAD_REQUEST,
with its result in ring 0 (R182, R189). -/
def execBadRequest (m : Master) (cell : Fin 256) (data : Burst) (s : State) : Host.Outcome State Fault Refusal :=
  .next (s.writeRequest m cell data)

end Sys2Proof.Machine
end

