-- ==== Sys2Proof/Machine/Answers.lean ====
section
/-!
DEFINITION. Memory's answers to the part's own bursts, and the work that waits for them. A command whose event is not due
changes nothing (log entry 16).
-/

namespace Sys2Proof.Machine

/-- A home write of an accepted frame. -/
def Owner.isHomeWrite : Owner → Bool
  | .homeWrite .. => true
  | _ => false

/-- The source unit's read for a direct-view talk read. -/
def Owner.isHomeRead : Owner → Bool
  | .homeRead .. => true
  | _ => false

/-- Memory answers the n-th oldest home write, and the OK that waits for it becomes known (R14, R19, R169). -/
def execHomeWriteAnswered (n : Nat) (ok : Bool) (s : State) : Host.Outcome State Fault Refusal :=
  .next (s.ready.answerNth Owner.isHomeWrite n ok)

/-- Memory answers the n-th oldest home read: the contents, or zeros on ERROR, become the master's response (R9, R169). -/
def execHomeReadAnswered (n : Nat) (ok : Bool) (s : State) : Host.Outcome State Fault Refusal :=
  .next (s.ready.answerNth Owner.isHomeRead n ok)

/-- The n-th listen read in flight completes (R65, R67). -/
def execListenReadComplete (n : Nat) (s : State) : Host.Outcome State Fault Refusal := .next (s.ready.completeListen n)

/-- Memory answers the n-th oldest of the part's own bursts ERROR (R169, R170). -/
def execMemoryFault (n : Nat) (s : State) : Host.Outcome State Fault Refusal :=
  .next (s.ready.answerNth Owner.isOwn n false)

/-- The next record comes to be placed (R150), during CLOCK_LOST too where it was listed before (R159). DEDUCED: log entry
34. -/
def execRecordPlace (s : State) : Host.Outcome State Fault Refusal :=
  .next (if s.running then s.ready.placeRecord else s.ready)

/-- The next record progress cell is written (R152), during CLOCK_LOST too (R159). DEDUCED: log entry 34. -/
def execRecordProgressWrite (s : State) : Host.Outcome State Fault Refusal :=
  .next (if s.running then s.ready.recordProgress else s.ready)

/-- The progress cell of a notice ring is written with an index (R192, R194). -/
def execNoticeProgressWrite (ring : Fin 4) (index : Nat) (s : State) : Host.Outcome State Fault Refusal :=
  .next (if s.running then s.ready.publish ring index else s.ready)

/-- The level image is complete (R44). -/
def execLevelImageDone (s : State) : Host.Outcome State Fault Refusal :=
  .next (if s.running then s.ready.levelsDone else s.ready)

/-- The state image is complete (R195). -/
def execStateImageDone (s : State) : Host.Outcome State Fault Refusal :=
  .next (if s.running then s.ready.stateDone else s.ready)

end Sys2Proof.Machine
end

