-- ==== Sys2Proof/Machine/CloseEvents.lean ====
section
/-!
DEFINITION. The events of a close that the table lists as commands of their own, each for one object. A close takes every one
that is due (R101, R135); the command takes it alone, and changes nothing where it is not due (log entries 16 and 19).
-/

namespace Sys2Proof.Machine

/-- A turret whose silence run has reached the loss limit becomes LOST (R27, R97, R131). -/
def execTurretLost (turret : Fin 64) (s : State) : Host.Outcome State Fault Refusal :=
  .next (if s.clockRuns then s.ready.takeLoss s.plan.floor.lossLimit turret else s.ready)

/-- A ringing line whose ring run has reached its limit goes to UNANSWERED (R96). -/
def execRingLimit (line : Fin 128) (s : State) : Host.Outcome State Fault Refusal :=
  .next (if s.clockRuns then s.ready.takeRingLimit line else s.ready)

/-- A RELEASING line whose release timer has reached the limit goes to INBOUND_RING (R93). -/
def execReleaseTimeout (line : Fin 128) (s : State) : Host.Outcome State Fault Refusal :=
  .next (if s.clockRuns then s.ready.takeReleaseTimeout line else s.ready)

/-- A keyed box member whose keyed run had reached the key limit at the close, and has grown there since, becomes UNKEYED
(R129). A run that equals the limit after a close is due at the next one, whose F the notice then carries (R130). -/
def execKeyTimeout (group : Fin 32) (turret : Fin 64) (s : State) : Host.Outcome State Fault Refusal :=
  .next (if s.clockRuns then s.ready.takeKeyTimeout 1 group turret else s.ready)

/-- The guard of a source as its run stands: GUARDED, with its GUARD_ON (R39, R41). -/
def State.takeGuard (s : State) (i : Nat) : State :=
  let x := s.source i
  if x.intake ∧ ¬ x.det.guarded ∧ (x.det.raiseGuard x.record).guarded then
    (s.setSource i { x with det := x.det.raiseGuard x.record }).handOn (guardNotice i true s.P)
  else s

/-- A talking source whose guard run has reached its limit becomes GUARDED (R39). -/
def execGuardOn (source : Fin 384) (s : State) : Host.Outcome State Fault Refusal :=
  .next (if s.clockRuns then s.ready.takeGuard source else s.ready)

/-- A stepping player whose frames-left count is 0 leaves its step, and forms its gate and tone from the new one (R106,
R107). -/
def State.takeStepEnd (s : State) (n : Nat) : State :=
  let p := s.player n
  let prog := s.program (s.lineAt n).record.program
  if p.phase = .stepping ∧ p.left = 0 then s.setPlayer n ((p.endStep prog).form prog) else s

/-- The step of a player ends (R106). -/
def execCadenceStepEnd (player : Fin 128) (s : State) : Host.Outcome State Fault Refusal :=
  .next (if s.clockRuns then s.ready.takeStepEnd player else s.ready)

/-- The talk flag of a detected source whose hang counter is 0 on a quiet frame turns off (R37). -/
def State.takeHangExpiry (s : State) (i : Nat) : State :=
  let x := s.source i
  if x.intake then s.setSource i { x with det := x.det.expireHang } else s

/-- The hang of a source expires (R37). -/
def execHangExpiry (source : Fin 384) (s : State) : Host.Outcome State Fault Refusal :=
  .next (if s.clockRuns then s.ready.takeHangExpiry source else s.ready)

end Sys2Proof.Machine
end

