-- ==== Sys2Proof/Machine/Dispatch.lean ====
section
/-! DEFINITION. The meaning of every command: one arm per constructor of `Instr`, in the order of the table. -/

namespace Sys2Proof.Machine

def exec (i : Instr) (s : State) : Host.Outcome State Fault Refusal :=
  match i with
  | .resetAssert => Sys2Proof.Machine.execResetAssert s
  | .resetRelease base decodeEn => Sys2Proof.Machine.execResetRelease base decodeEn s
  | .frameClose order => Sys2Proof.Machine.execFrameClose order s
  | .clockLost => Sys2Proof.Machine.execClockLost s
  | .secondStrobe => Sys2Proof.Machine.execSecondStrobe s
  | .forwardedBurst event => Sys2Proof.Machine.execForwardedBurst event s
  | .burstAnsweredError m addr op => Sys2Proof.Machine.execBurstAnsweredError m addr op s
  | .talkWrite m view place data => Sys2Proof.Machine.execTalkWrite m view place data s
  | .gatherBurst m view place data => Sys2Proof.Machine.execGatherBurst m view place data s
  | .homeRead m view place => Sys2Proof.Machine.execHomeRead m view place s
  | .listenRead m view place => Sys2Proof.Machine.execListenRead m view place s
  | .sourceHomeWrite m source position data enables ans => Sys2Proof.Machine.execSourceHomeWrite m source position data enables ans s
  | .inboundSignalWrite m line data => Sys2Proof.Machine.execInboundSignalWrite m line data s
  | .partialCellWrite m addr data enables ans => Sys2Proof.Machine.execPartialCellWrite m addr data enables ans s
  | .lineKey head turret handset line => Sys2Proof.Machine.execLineKey head turret handset line s
  | .lineRelease head turret handset line => Sys2Proof.Machine.execLineRelease head turret handset line s
  | .lineHold head turret handset line => Sys2Proof.Machine.execLineHold head turret handset line s
  | .groupJoin head turret group attach talkCap listenSlot listenGain talkGain => Sys2Proof.Machine.execGroupJoin head turret group attach talkCap listenSlot listenGain talkGain s
  | .groupLeave head turret group => Sys2Proof.Machine.execGroupLeave head turret group s
  | .talkKey head turret group => Sys2Proof.Machine.execTalkKey head turret group s
  | .talkUnkey head turret group => Sys2Proof.Machine.execTalkUnkey head turret group s
  | .setTime head seconds => Sys2Proof.Machine.execSetTime head seconds s
  | .levelSnapshot head => Sys2Proof.Machine.execLevelSnapshot head s
  | .stateImage head => Sys2Proof.Machine.execStateImage head s
  | .clearCounts head => Sys2Proof.Machine.execClearCounts head s
  | .floorRestart head => Sys2Proof.Machine.execFloorRestart head s
  | .badRequest m cell data => Sys2Proof.Machine.execBadRequest m cell data s
  | .recordConsumerWrite m data => Sys2Proof.Machine.execRecordConsumerWrite m data s
  | .noticeConsumerWrite m ring data => Sys2Proof.Machine.execNoticeConsumerWrite m ring data s
  | .planWrite m record data => Sys2Proof.Machine.execPlanWrite m record data s
  | .planPartialWrite m record data enables ans => Sys2Proof.Machine.execPlanPartialWrite m record data enables ans s
  | .homeWriteAnswered n ok => Sys2Proof.Machine.execHomeWriteAnswered n ok s
  | .homeReadAnswered n ok => Sys2Proof.Machine.execHomeReadAnswered n ok s
  | .listenReadComplete n => Sys2Proof.Machine.execListenReadComplete n s
  | .memoryFault n => Sys2Proof.Machine.execMemoryFault n s
  | .recordPlace => Sys2Proof.Machine.execRecordPlace s
  | .recordProgressWrite => Sys2Proof.Machine.execRecordProgressWrite s
  | .noticeProgressWrite ring index => Sys2Proof.Machine.execNoticeProgressWrite ring index s
  | .levelImageDone => Sys2Proof.Machine.execLevelImageDone s
  | .stateImageDone => Sys2Proof.Machine.execStateImageDone s
  | .turretLost turret => Sys2Proof.Machine.execTurretLost turret s
  | .ringLimit line => Sys2Proof.Machine.execRingLimit line s
  | .releaseTimeout line => Sys2Proof.Machine.execReleaseTimeout line s
  | .keyTimeout group turret => Sys2Proof.Machine.execKeyTimeout group turret s
  | .guardOn source => Sys2Proof.Machine.execGuardOn source s
  | .cadenceStepEnd player => Sys2Proof.Machine.execCadenceStepEnd player s
  | .hangExpiry source => Sys2Proof.Machine.execHangExpiry source s

end Sys2Proof.Machine
end

