-- ==== Sys2Proof/Safety.lean ====
section
/-!
DEFINITION. What the statements about the model speak of: the way of a burst that nothing in flight disturbs, the state in which a
block is handed a write, and the invariants that every step keeps.
-/

namespace Sys2Proof.Machine

/-! ### The way of a burst -/

/-- No burst in flight has this address, and every burst in flight has a number already given. -/
def PathSwitch.Clear (p : PathSwitch) (addr : Nat) : Prop := ∀ f ∈ p.unanswered, f.id < p.nextId ∧ f.addr ≠ addr

/-- A master's burst to a floor offset is taken at once and decoded: RESET is released, DECODE_EN was high, the queue of the
master has room (R161, R162, R166), and no burst in flight has its address. -/
def State.Way (s : State) (m offset : Nat) : Prop :=
  s.path.active = true ∧ s.queueFull m = false ∧ s.path.Clear (s.path.address offset)

/-- `x` is `s` with a master's full write of `d` at a floor offset taken and answered OK by memory (R163, R165): memory holds
the 32 bytes, the master's entry is answered (at once returned, where its queue held no earlier entry, R166), waiting bursts may
have been presented, and no block has changed. It is the state in which the owning block is handed the contents. -/
structure Taken (s : State) (m offset : Nat) (d : Burst) (x : State) : Prop where
  src : x.src = s.src
  mix : x.mix = s.mix
  line : x.line = s.line
  ring : x.ring = s.ring
  group : x.group = s.group
  recorder : x.recorder = s.recorder
  plan : x.plan = s.plan
  notice : x.notice = s.notice
  pending : x.pending = s.pending
  mem : x.mem = writeBurst s.mem (s.path.address offset) d Enables.full
  base : x.path.base = s.path.base
  decodeEn : x.path.decodeEn = s.path.decodeEn
  resetAsserted : x.path.resetAsserted = s.path.resetAsserted
  partialWrites : x.path.partialWrites = s.path.partialWrites
  memoryFaults : x.path.memoryFaults = s.path.memoryFaults
  faultMark : x.path.faultMark = s.path.faultMark
  ownWait : x.path.ownWait <:+ s.path.ownWait
  queues : ∀ k, k ≠ m → x.queue k = s.queue k
  reply : s.queue m = [] → x.queue m = [] ∧ x.path.returned = s.path.returned ++ [(m, .ok)]

/-- `f` is in flight, and no other burst in flight has its number or its address: its answer is its own (R168). -/
def PathSwitch.Alone (p : PathSwitch) (f : Flight) : Prop :=
  p.unanswered.filter (fun g => g.id == f.id || g.addr == f.addr) = [f]

/-- `x` is `s` with memory's answer to the burst `f` alone taken: memory holds what the answer leaves there, the burst is in flight
no longer, waiting bursts may have been presented, and no block, queue or count has changed. -/
structure Answered (s : State) (f : Flight) (ok : Bool) (x : State) : Prop where
  src : x.src = s.src
  mix : x.mix = s.mix
  line : x.line = s.line
  ring : x.ring = s.ring
  group : x.group = s.group
  recorder : x.recorder = s.recorder
  plan : x.plan = s.plan
  notice : x.notice = s.notice
  pending : x.pending = s.pending
  mem : x.mem = memoryAfter s.mem f ok
  base : x.path.base = s.path.base
  decodeEn : x.path.decodeEn = s.path.decodeEn
  resetAsserted : x.path.resetAsserted = s.path.resetAsserted
  partialWrites : x.path.partialWrites = s.path.partialWrites
  memoryFaults : x.path.memoryFaults = s.path.memoryFaults
  faultMark : x.path.faultMark = s.path.faultMark
  returned : x.path.returned = s.path.returned
  nextId : x.path.nextId = s.path.nextId
  queues : x.path.queues = s.path.queues
  ownWait : x.path.ownWait <:+ s.path.ownWait
  unanswered : x.path.unanswered.Perm (s.path.unanswered.filter fun g => g.id != f.id)

/-- Something waits for memory's answer to the single burst: a queue entry, or a use of the mix (R67, R167). -/
def Owner.awaited : Owner → Bool
  | .master .. | .homeWrite .. | .homeRead .. | .jobRead .. => true
  | _ => false

/-- Every burst in flight that satisfies a test is alone: its answer is its own (R168). -/
def PathSwitch.EachAlone (p : PathSwitch) (q : Flight → Bool) : Prop := ∀ f ∈ p.unanswered, q f = true → p.Alone f

/-- `x` is `s` with memory's OK to every burst in flight that satisfies a test taken, bursts whose answer no block waits for: none of
these is in flight any longer, memory has changed only where they write, waiting bursts may have been presented, and no block, queue
or count has changed. -/
structure Drained (s : State) (q : Flight → Bool) (x : State) : Prop where
  src : x.src = s.src
  mix : x.mix = s.mix
  line : x.line = s.line
  ring : x.ring = s.ring
  group : x.group = s.group
  recorder : x.recorder = s.recorder
  plan : x.plan = s.plan
  notice : x.notice = s.notice
  pending : x.pending = s.pending
  mem : ∀ a, (∀ f ∈ s.path.unanswered, q f = true → a < f.addr ∨ f.addr + 32 ≤ a) → readByte x.mem a = readByte s.mem a
  base : x.path.base = s.path.base
  decodeEn : x.path.decodeEn = s.path.decodeEn
  resetAsserted : x.path.resetAsserted = s.path.resetAsserted
  partialWrites : x.path.partialWrites = s.path.partialWrites
  memoryFaults : x.path.memoryFaults = s.path.memoryFaults
  faultMark : x.path.faultMark = s.path.faultMark
  returned : x.path.returned = s.path.returned
  queues : x.path.queues = s.path.queues
  ownWait : x.path.ownWait <:+ s.path.ownWait
  unanswered : x.path.unanswered.Perm (s.path.unanswered.filter fun g => !q g)

/-- A burst in flight is the last of an image that memory has not answered, and the blocks run (R44, R195). -/
def State.LastOf (s : State) (f : Flight) (o : Owner) : Prop :=
  s.running = true ∧ f.owner = o ∧ ∀ g ∈ s.path.unanswered, g.owner = o → g.id = f.id

/-- The level image is complete: IMAGE_DONE with the captured P, and with cause FAULT where a burst of it was answered ERROR, then the
results in order; no level image is being written, and the deferred requests are pending (R43, R44, R195). -/
def State.levelsWritten (x : State) (j : ImageJob) : State :=
  { (x.handOn { cls := .result, kind := .imageDone, cause := if j.fault then some .fault else none, frame := j.frame,
                object := some 0 }).results .levelSnapshot j.served with
    src := { x.src with levelImage := none, snapPending := x.src.snapPending ++ x.src.snapDeferred, snapDeferred := [] } }

/-- The state image is complete, in the same way (R195). -/
def State.stateWritten (x : State) (j : ImageJob) : State :=
  let y := (x.handOn { cls := .result, kind := .imageDone, cause := if j.fault then some .fault else none, frame := j.frame,
                       object := some 1 }).results .stateImage j.served
  { y with
    notice := { y.notice with
      image := none, imagePending := x.notice.imagePending ++ x.notice.imageDeferred, imageDeferred := [] } }

/-- What a state comes to once the work that an answer brings is done, the burst's image being complete where the burst was its last
(R44, R195). -/
def Completes (s : State) (f : Flight) (levels image : Option ImageJob) (y t : State) : Prop :=
  (∀ j, s.LastOf f .levelImage → levels = some j → t = y.levelsWritten j) ∧
  (∀ j, s.LastOf f .stateImage → image = some j → t = y.stateWritten j) ∧
  ((s.LastOf f .levelImage → levels = none) → (s.LastOf f .stateImage → image = none) → t = y)

/-- The frames that memory holds for the reads in flight of one use of the mix, in order. -/
def State.framesFor (s : State) (job : Nat) : List (Nat × Burst) :=
  s.path.unanswered.filterMap fun f =>
    match f.owner with
    | .jobRead source j => if j = job then some (source, readBurst s.mem f.addr) else none
    | _ => none

/-- A use of the mix with the frames that memory holds for its reads in flight. -/
def State.filled (s : State) (j : Job) : Job := { j with got := j.got ++ s.framesFor j.id }

/-- The reads in flight of some uses of the mix are reads, each alone. -/
def State.ReadsAlone (s : State) (jobs : List Nat) : Prop :=
  s.path.EachAlone (Flight.reads jobs) ∧ ∀ f ∈ s.path.unanswered, Flight.reads jobs f = true → f.op = .read

/-- Every byte of memory outside the 32 bytes from an address on reads as before. -/
def OnlyStores (s t : State) (addr : Nat) : Prop :=
  ∀ a, a < addr ∨ addr + 32 ≤ a → readByte t.mem a = readByte s.mem a

/-- The response that a request of this head is answered in (R182, R183). -/
def replyTo (h : RequestHead) : ReplyTo := { cell := h.cell, ring := h.ring.toNat, tag := h.tag.toNat }

/-- A request's write is taken on a clear way, its reply ring exists, and no restart is pending (R182). -/
def State.RequestWay (s : State) (h : RequestHead) : Prop :=
  s.Way h.master (requestOffset h.cell) ∧ h.ring.toNat ≤ 3 ∧ s.plan.restart = none

/-- The address of a request's cell. -/
def State.requestAddress (s : State) (h : RequestHead) : Nat := s.path.address (requestOffset h.cell)

/-- What a request that is answered when it is taken leaves, its own effect apart (R165, R166, R182, R183): its result is the last notice
handed on, of the bytes of memory only those of its cell may have changed, the master has its OK, and no other queue, no count of the
path switch and no clock has changed. -/
structure Served (s t : State) (h : RequestHead) (k : RequestKind) (c : Code) : Prop where
  answered : ∃ y : State, t = y.result (replyTo h) k c
  stores : OnlyStores s t (s.requestAddress h)
  queues : ∀ j, j ≠ h.master.val → t.queue j = s.queue j
  reply : s.queue h.master = [] → t.queue h.master = [] ∧ t.path.returned = [(h.master.val, .ok)]
  partialWrites : t.path.partialWrites = s.path.partialWrites
  memoryFaults : t.path.memoryFaults = s.path.memoryFaults
  faultMark : t.path.faultMark = s.path.faultMark
  src : t.src = s.src
  plan : t.plan = s.plan

/-- The head and the kind of a request, for the commands that are requests of the twelve kinds (R182). -/
def requestOf : Instr → Option (RequestHead × RequestKind)
  | .lineKey h .. => some (h, .lineKey)
  | .lineRelease h .. => some (h, .lineRelease)
  | .lineHold h .. => some (h, .lineHold)
  | .groupJoin h .. => some (h, .groupJoin)
  | .groupLeave h .. => some (h, .groupLeave)
  | .talkKey h .. => some (h, .talkKey)
  | .talkUnkey h .. => some (h, .talkUnkey)
  | .setTime h _ => some (h, .setTime)
  | .levelSnapshot h => some (h, .levelSnapshot)
  | .stateImage h => some (h, .stateImage)
  | .clearCounts h => some (h, .clearCounts)
  | .floorRestart h => some (h, .floorRestart)
  | _ => none

/-- No block has changed: only the path switch, memory and the queue of commands may have. -/
def BlocksKept (s t : State) : Prop :=
  t.src = s.src ∧ t.mix = s.mix ∧ t.line = s.line ∧ t.ring = s.ring ∧ t.group = s.group ∧ t.recorder = s.recorder ∧
    t.plan = s.plan ∧ t.notice = s.notice

/-- No burst has been issued, forwarded or answered, and memory is as it was. -/
def NoTraffic (s t : State) : Prop := t.path.unanswered = s.path.unanswered ∧ t.mem = s.mem

/-- The response of a burst of master `m` whose queue was empty is returned at once (R166, R167). -/
def AtOnce (s t : State) (m : Nat) (r : Response) : Prop :=
  s.queue m = [] → t.queue m = [] ∧ t.path.returned = [(m, r)]

/-- A burst of master `m` whose queue was empty waits there for memory's answers to `awaiting` bursts (R166, R167). -/
def Waits (s t : State) (m id awaiting : Nat) : Prop :=
  s.queue m = [] → t.queue m = [{ id := id, awaiting := awaiting, response := .ok }]

/-- The path switch decodes, and the queue of the master has room (R162, R166). -/
def State.Room (s : State) (m : Nat) : Prop := s.path.active = true ∧ s.queueFull m = false

/-- The areas and kinds of burst that are forwarded and that no block takes (R163). -/
def forwardedArea (o : Nat) (op : BurstOp) : Bool :=
  match areaOf o, op with
  | .home _, .read | .cell _, .read | .plan _, .read | .own, .read | .free, _ => true
  | _, _ => false

/-- The block that is handed a full write at a floor offset once memory has answered it OK (R163, R165, R173). -/
def handedTo (o : Nat) : Option Hand :=
  match areaOf o with
  | .cell h => some h
  | .plan r => some (.plan r)
  | _ => none

/-- The bursts to a view that the table of R6 answers ERROR; `o` is the floor offset. -/
def State.viewRefuses (s : State) (o : Nat) (op : BurstOp) : Bool :=
  let r := (s.view (o / 16384)).record
  let w := o % 8192
  !r.enabled ||
    if o % 16384 < 8192 then
      !decide (w < r.channels * 256) ||
        match op with
        | .read => r.width != 1
        | .write _ en => en != Enables.full
    else
      match op with
      | .read => !decide (w < r.channels * 32)
      | .write .. => true

/-- Commands that carry no answer of memory: the pins, the events of a close, and bursts taken or presented. -/
def answerless : Instr → Bool
  | .resetAssert | .resetRelease .. | .frameClose _ | .clockLost | .secondStrobe | .burstAnsweredError .. => true
  | .forwardedBurst (.taken _ _ _ ans) => ans == .later
  | .forwardedBurst .presented | .talkWrite .. | .gatherBurst .. | .homeRead .. | .listenRead .. => true
  | .turretLost _ | .ringLimit _ | .releaseTimeout _ | .keyTimeout .. | .guardOn _ => true
  | .cadenceStepEnd _ | .hangExpiry _ => true
  | _ => false

/-! ### Notices handed on -/

/-- A burst that writes a notice (R190). -/
def Flight.isNotice (f : Flight) : Bool :=
  match f.owner with
  | .notice .. => true
  | _ => false

/-- The part's own waiting bursts that write notices, in the order they were issued (R168, R190). -/
def State.noticeBursts (s : State) : List Flight := s.path.ownWait.filter Flight.isNotice

/-- The notice unit is as it was, and no notice is handed on: its rings and lists, the routing, F, and the waiting notice writes. -/
structure NoNotice (s t : State) : Prop where
  notice : t.notice = s.notice
  routing : t.plan.floor = s.plan.floor
  frame : t.src.F = s.src.F
  base : t.path.base = s.path.base
  active : t.path.active = s.path.active
  bursts : t.noticeBursts = s.noticeBursts

/-- From `s` to `t` these notices are handed on, in this order, and no other; what else happens between them is left open. -/
def Handed (s : State) : List Notice → State → Prop
  | [], t => NoNotice s t
  | n :: rest, t => ∃ x, NoNotice s x ∧ Handed (x.handOn n) rest t

/-! ### Handsets, channels and the LINE_KEY -/

/-- The LINE_STATE notice of a handset's join or leave (R80). -/
def handsetNotice (s : State) (n h : Nat) (old new : LineStatus) (cause : Cause) (c : Code) : Notice :=
  { cls := .line, kind := .lineState, cause := some cause, code := c, frame := s.src.F, object := some n, turret := some (h / 2),
    handset := some h, old := some old.code, new := some new.code }

/-- A line is in a channel-free state: IDLE, INBOUND_RING, UNANSWERED, or HELD with no record channel (R87). -/
def State.ChannelFree (s : State) (n : Nat) : Prop :=
  (s.lineAt n).status = .idle ∨ (s.lineAt n).status = .inboundRing ∨ (s.lineAt n).status = .unanswered ∨
    ((s.lineAt n).status = .held ∧ ∀ c < 64, (s.channel c).bound ≠ some (.line n))

/-- No channel of the pool is free (R139). -/
def State.PoolEmpty (s : State) : Prop := ∀ c < 64, (s.channel c).bound ≠ none

/-- The lowest-numbered free channel of the pool (R139). -/
def State.NextChannel (s : State) (c : Nat) : Prop :=
  c < 64 ∧ (s.channel c).bound = none ∧ ∀ d < c, (s.channel d).bound ≠ none

/-- An object holds a channel, or holds none (R138). -/
def State.HoldsChannel (s : State) (o : Obj) : Prop := ∃ c < 64, (s.channel c).bound = some o

/-- The mic source that a turret record in force names for handset L, 0, or R, 1 (R84). -/
def State.micFor (s : State) (turret handset : Nat) : Option Nat :=
  if handset = 0 then (s.turret turret).record.micL else (s.turret turret).record.micR

/-- The listen slot that a turret record in force names for handset L, 0, or R, 1 (R84). -/
def State.slotFor (s : State) (turret handset : Nat) : Nat :=
  if handset = 0 then (s.turret turret).record.slotL else (s.turret turret).record.slotR

/-- The term of a handset's join fits its slot: with the term the occupancy is at most 12, less one where the handset is on a line,
whose term goes (R87). -/
def State.KeyTermFits (s : State) (turret handset : Nat) : Prop :=
  (s.slot (s.slotFor turret handset)).occupancy < 12 ∨
    ((∃ m, s.occupancy (handsetOf turret handset) = .line m) ∧ (s.slot (s.slotFor turret handset)).occupancy = 12)

/-- Check i of a LINE_KEY fails with a code (R86, R87). That a slot without room, or a bus at its limit, is found full before the mic
that is on the bus already is found twice is the model's choice (log entry 13). -/
def State.KeyFails (s : State) (turret handset n : Nat) : Nat → Code → Prop
  | 1, .badRequest => ¬ (turret ≤ 63 ∧ handset ≤ 1 ∧ n ≤ 127 ∧ (s.lineAt n).record.enabled = true)
  | 2, .turretAbsent => (s.turret turret).presence ≠ .present
  | 3, .notAppearance => ∀ a ∈ (s.lineAt n).appearances, a.turret ≠ turret
  | 4, .handsetBusy => ∃ g, s.occupancy (handsetOf turret handset) = .group g
  | 5, .outOfService => (s.lineAt n).status = .outOfService
  | 6, .busy =>
    ((s.lineAt n).status = .outboundWait ∨ (s.lineAt n).status = .connected ∨ (s.lineAt n).status = .farCleared) ∧
      ((s.lineAt n).record.privacy ≠ .sharedLine ∨ 4 ≤ (s.lineAt n).joined.length)
  | 6, .state => (s.lineAt n).status = .releasing
  | 7, .termsFull => ¬ s.KeyTermFits turret handset ∨ ((s.micFor turret handset).isSome = true ∧ 5 ≤ (s.bus n).occupancy)
  | 7, .badRequest =>
    s.KeyTermFits turret handset ∧ (s.bus n).occupancy < 5 ∧ ∃ c ∈ (s.bus n).after, s.micFor turret handset = some c.source
  | 8, .recorderDown => s.ChannelFree n ∧ (s.lineAt n).record.mode = .required ∧ s.recorder.status = .outage
  | 8, .noRecordChannel =>
    s.ChannelFree n ∧ (s.lineAt n).record.mode = .required ∧ s.recorder.status = .healthy ∧ s.PoolEmpty
  | _, _ => False

/-- A check fails first: it fails with a code, and every check before it passes. -/
def FailsFirst (fails : Nat → Code → Prop) (i : Nat) (c : Code) : Prop := fails i c ∧ ∀ j < i, ∀ d, ¬ fails j d

/-- The edits of a LINE_KEY, in one batch (R84, R88): off the line the handset is on, its mic contributor and its term; the hold term
of a HELD line where one is placed; onto the line, its mic as an OPEN contributor at unity, and the term of the bus at unity, less the
mic. -/
def State.keyBatch (s : State) (turret handset n : Nat) : List Edit :=
  let mic := s.micFor turret handset
  let slot := s.slotFor turret handset
  let term (m : Nat) : Term := { kind := .bus m mic, gain := 16384 }
  (match s.occupancy (handsetOf turret handset) with
    | .line m => (mic.toList.map fun c => Edit.dropContrib m c) ++ [.dropTerm slot (term m) .line]
    | _ => []) ++
  (if (s.lineAt n).status = .held ∧ (s.lineAt n).holdPlaced = true then
    (s.lineAt n).record.hold.toList.map fun k =>
      Edit.dropTerm (s.lineAt n).record.out { kind := .source k, gain := 16384 } .line
    else []) ++
  (mic.toList.map fun c => Edit.addContrib n { source := c, gain := 16384, kind := .opened }) ++
  [.addTerm slot (term n) .line]

/-! ### Joins of groups -/

/-- The listen slot of a join: the turret record's for a handset attach, 0 or 1, the one it names for SPEAKER (R118). -/
def State.joinSlot (s : State) (j : JoinRequest) : Nat := if j.attach ≤ 1 then s.slotFor j.turret j.attach else j.slot

/-- The mic source that a join places: the one the turret record names for the attach, and none for a listen-only BOX member
(R118, R119). -/
def State.joinMic (s : State) (j : JoinRequest) : Option Nat :=
  if (s.groupAt j.group).record.kind = .box ∧ j.talk = false then none
  else if j.attach ≤ 1 then s.micFor j.turret j.attach
  else (s.turret j.turret).record.micSpeaker

/-- Check i of a GROUP_JOIN fails with a code (R120, R121). That a slot without room, or a bus at its limit, is found full before the
mic that is on the bus already is found twice is the model's choice (log entry 13). -/
def State.JoinFails (s : State) (j : JoinRequest) : Nat → Code → Prop
  | 1, .badRequest =>
    ¬ (j.turret ≤ 63 ∧ j.group ≤ 31 ∧ (s.groupAt j.group).record.enabled = true ∧ j.attach ≤ 2 ∧ (j.attach = 2 → j.slot ≤ 255) ∧
      ((s.groupAt j.group).record.kind = .box →
        j.attach = 2 ∧ (j.talk = true → (s.turret j.turret).record.micSpeaker.isSome = true)))
  | 2, .turretAbsent => (s.turret j.turret).presence ≠ .present
  | 3, .alreadyMember => ∃ m ∈ (s.groupAt j.group).members, m.turret = j.turret
  | 4, .groupFull =>
    match (s.groupAt j.group).record.kind with
    | .intercom => 16 ≤ (s.groupAt j.group).members.length
    | .box => 64 ≤ (s.groupAt j.group).members.length ∨
        (j.talk = true ∧ 20 ≤ ((s.groupAt j.group).members.filter (·.talker)).length)
  | 5, .handsetBusy => j.attach ≤ 1 ∧ s.occupancy (j.turret * 2 + j.attach) ≠ .vacant
  | 6, .termsFull =>
    12 ≤ (s.slot (s.joinSlot j)).occupancy ∨ ((s.joinMic j).isSome = true ∧ 24 ≤ (s.bus (128 + j.group)).occupancy)
  | 6, .badRequest =>
    (s.slot (s.joinSlot j)).occupancy < 12 ∧ (s.bus (128 + j.group)).occupancy < 24 ∧
      ∃ c ∈ (s.bus (128 + j.group)).after, s.joinMic j = some c.source
  | 7, .recorderDown =>
    (s.groupAt j.group).members = [] ∧ (s.groupAt j.group).record.mode = .required ∧ s.recorder.status = .outage
  | 7, .noRecordChannel =>
    (s.groupAt j.group).members = [] ∧ (s.groupAt j.group).record.mode = .required ∧ s.recorder.status = .healthy ∧ s.PoolEmpty
  | _, _ => False

/-- The member record that a join makes (R118, R119, R120). -/
def State.joinMember (s : State) (j : JoinRequest) : Member :=
  { turret := j.turret
    attach := if j.attach = 0 then .handsetL else if j.attach = 1 then .handsetR else .speaker
    mic := s.joinMic j
    slot := s.joinSlot j
    listenGain := min 32767 j.listenGain
    talker := if (s.groupAt j.group).record.kind = .intercom then (s.joinMic j).isSome else j.talk
    talkGain := min 32767 j.talkGain
    keyed := false
    keyedRun := 0 }

/-- The edits of a GROUP_JOIN, in one batch (R118, R119): the listener term, less the mic that the member places, and the mic as a
contributor, OPEN in an INTERCOM and KEYED in a BOX. -/
def State.joinBatch (s : State) (j : JoinRequest) : List Edit :=
  [.addTerm (s.joinSlot j) { kind := .bus (128 + j.group) (s.joinMic j), gain := min 32767 j.listenGain } .group] ++
  (s.joinMic j).toList.map fun c => Edit.addContrib (128 + j.group)
    { source := c, gain := min 32767 j.talkGain,
      kind := if (s.groupAt j.group).record.kind = .intercom then .opened else .keyed }

/-! ### Records -/

/-- A listed record after channels were freed: marked where its channel is one of them, and else as it was (R140, R150). -/
def PendingRecord.Unbound (freed : Nat → Prop) (r q : PendingRecord) : Prop :=
  q = { r with freed := q.freed } ∧ (q.freed = true ↔ r.freed = true ∨ freed r.channel)

/-! ### Lines -/

/-- A line in a new state, with the counts that start with it (R93, R96). -/
def Line.moved (l : Line) (new : LineStatus) : Line :=
  { l with
    status := new
    ringRun := if new = .inboundRing then 0 else l.ringRun
    releaseTimer := if new = .releasing then 0 else l.releaseTimer }

/-- The state of a line that its last handset leaves (R85). -/
def LineStatus.left : LineStatus → Cause → LineStatus
  | .connected, .release => .releasing
  | .connected, _ => .held
  | .outboundWait, _ => .idle
  | .farCleared, _ => .idle
  | st, _ => st

/-- The state of a line after a far-end signal (R81, R82, R83). -/
def LineStatus.signalled : LineStatus → Signal → LineStatus
  | .idle, .seize => .inboundRing
  | .outOfService, .seize => .inboundRing
  | .outboundWait, .seize => .connected
  | .farCleared, .seize => .connected
  | .inboundRing, .clear => .idle
  | .unanswered, .clear => .idle
  | .connected, .clear => .farCleared
  | .held, .clear => .idle
  | .releasing, .clear => .idle
  | .outOfService, .clear => .idle
  | _, .fault => .outOfService
  | st, _ => st

/-- An enabled line after a far-end signal with another code than the held one: the code, the state, the joined list that a FAULT empties,
the hold term that a FAULT or a parked line's CLEAR removes, and the ring run that starts with a ring; its record, its banks and its
release timer stay (R76, R81, R82, R83, R93, R96). DESIGN CHOICE: the ring run and the release timer keep their last values in states
that do not use them (log entry 29). -/
def Line.farMoved (l : Line) (code : Signal) : Line :=
  { l with
    inbound := code
    status := l.status.signalled code
    joined := if code = .fault ∧ l.status ≠ .outOfService then [] else l.joined
    holdPlaced :=
      if (code = .fault ∧ l.status ≠ .outOfService) ∨ (code = .clear ∧ l.status = .held) then false else l.holdPlaced
    ringRun := if l.status ≠ .inboundRing ∧ l.status.signalled code = .inboundRing then 0 else l.ringRun }

/-- The cause of a far-end signal (R80). -/
def Signal.cause : Signal → Cause
  | .clear => .farClear
  | .seize => .farSeize
  | .fault => .farFault

/-- The LINE_STATE notice of a change of line state that concerns no handset (R80). -/
def changeNotice (s : State) (n : Nat) (old new : LineStatus) (cause : Cause) : Notice :=
  { cls := .line, kind := .lineState, cause := some cause, frame := s.src.F, object := some n, old := some old.code,
    new := some new.code }

/-! ### A ring's start -/

/-- The ringer term of a line, asked in the ringer slot that a turret record in force names (R108). -/
def State.ringAdd (s : State) (n u : Nat) : Edit :=
  .addTerm (s.turret u).record.slotRinger { kind := .cadence n, gain := (s.lineAt n).record.ringGain } .ring

/-- What a mix engine answers to the ringer terms of a line at some turrets, each asked on its own and in order: a term is accepted
where the turret's ringer slot holds fewer than 12 when it is asked (R55, R108). -/
def State.ringAnswers (s : State) (n : Nat) : MixEngine → List Nat → List (Nat × Bool)
  | _, [] => []
  | m, u :: rest =>
    (u, decide ((m.slots.get {} (s.turret u).record.slotRinger).occupancy < 12)) ::
      s.ringAnswers n (m.askEach [s.ringAdd n u]) rest

/-- The RING_SILENT notice of a turret whose ringer term is refused (R108). -/
def silentNotice (s : State) (n u : Nat) (cause : Option Cause) : Notice :=
  { cls := .line, kind := .ringSilent, cause := cause, code := .termsFull, frame := s.src.F, object := some n,
    turret := some u, old := some LineStatus.inboundRing.code, new := some LineStatus.inboundRing.code }

/-- The RING_SILENT notices of a ring's start, in the order in which the appearances are asked (R108). -/
def State.ringSilents (s : State) (n : Nat) (cause : Cause) : List Notice :=
  ((s.ringAnswers n s.mix (ringingTurrets s n)).filter fun a => !a.2).map fun a => silentNotice s n a.1 cause

/-- From `s` to `t` the ring of a line starts: its player is STARTING at step 0 with the cause of the entry, its ringer terms are asked
at the appearances that ring at PRESENT turrets, and those accepted are on its list (R105, R108). DESIGN CHOICE: its frames left, which a
STARTING player does not use, stay as they were (R104; log entry 29). -/
structure RingStarts (s t : State) (n : Nat) (cause : Cause) : Prop where
  mix : t.mix = s.mix.askEach ((ringingTurrets s n).map (s.ringAdd n))
  player : t.player n = { s.player n with
    phase := .starting, index := 0, entry := some cause
    terms := (s.player n).terms ++ ((s.ringAnswers n s.mix (ringingTurrets s n)).filter (·.2)).map fun a =>
      (a.1, (s.turret a.1).record.slotRinger) }
  others : ∀ k, k ≠ n → t.player k = s.player k

/-- The removals of a ring's stop: each term on the player's list, in the slot where it was placed (R109). -/
def State.ringDrops (s : State) (n : Nat) : List Edit :=
  (s.player n).terms.map fun e => .dropTerm e.2 { kind := .cadence n, gain := (s.lineAt n).record.ringGain } .ring

/-- The edits that a far-end signal asks of the mix engine: the leaves of a FAULT in join order, the hold term of a line that leaves
HELD or goes to OUT_OF_SERVICE, and the ringer terms of a ring that stops or starts (R82, R83, R85, R95, R108, R109). No signal asks
both a removal and an addition, and removals come to the same in any order. -/
def State.signalEdits (s : State) (n : Nat) (code : Signal) : List Edit :=
  let l := s.lineAt n
  let new := l.status.signalled code
  (if code = .fault ∧ l.status ≠ .outOfService then l.joined.flatMap (leaveEdits s n) else []) ++
  (if (code = .fault ∧ l.status ≠ .outOfService) ∨ (code = .clear ∧ l.status = .held) then holdDrops l else []) ++
  (if l.status = .inboundRing ∧ new ≠ .inboundRing then s.ringDrops n else []) ++
  (if l.status ≠ .inboundRing ∧ new = .inboundRing then (ringingTurrets s n).map (s.ringAdd n) else [])

/-- The notices that a far-end signal hands on: at a FAULT one for each handset that leaves, then that of the change of state, then the
RING_SILENTs of a ring that starts (R80, R83, R108). -/
def State.signalNotices (s : State) (n : Nat) (code : Signal) : List Notice :=
  let l := s.lineAt n
  let new := l.status.signalled code
  if new = l.status then []
  else
    (if code = .fault then l.joined.map fun h => handsetNotice s n h l.status l.status .farFault .done else []) ++
      [changeNotice s n l.status new code.cause] ++ (if new = .inboundRing then s.ringSilents n .farSeize else [])

/-! ### Turrets that become PRESENT -/

/-- The turrets that become PRESENT when frames of some sources are accepted one after another: those enabled and not PRESENT that name
one, each at the first that it names, and for one source in ascending number (R26, log entry 35). -/
def State.returning (s : State) : List Nat → List Nat
  | [] => []
  | i :: rest =>
    let now := (List.range 64).filter fun u =>
      (s.turret u).record.enabled && (s.turret u).presence != .present && (s.turret u).record.names i
    now ++ (s.returning rest).filter fun u => !now.contains u

/-- The lines that ring at a turret when it becomes PRESENT, ascending: those in INBOUND_RING with an appearance of it that rings, and
whose player's list does not name it already (R110, log entry 35). -/
def State.ringBack (s : State) (u : Nat) : List Nat :=
  (List.range 128).filter fun n =>
    (s.lineAt n).record.enabled && (s.lineAt n).status == .inboundRing &&
      (s.lineAt n).appearances.any (fun a => a.turret == u && a.rings) && (s.player n).terms.all fun e => e.1 != u

/-- The ringer terms that some turrets' becoming PRESENT asks, in order, each as a turret and a line (R110). -/
def State.returnAsks (s : State) (turrets : List Nat) : List (Nat × Nat) :=
  turrets.flatMap fun u => (s.ringBack u).map fun n => (u, n)

/-- What a mix engine answers to the ringer terms of some turrets and lines, each asked on its own and in order (R55, R110). -/
def State.returnAnswers (s : State) : MixEngine → List (Nat × Nat) → List ((Nat × Nat) × Bool)
  | _, [] => []
  | m, (u, n) :: rest =>
    ((u, n), decide ((m.slots.get {} (s.turret u).record.slotRinger).occupancy < 12)) ::
      s.returnAnswers (m.askEach [s.ringAdd n u]) rest

/-- The notices of some turrets that become PRESENT, each turret's together: its TURRET_PRESENT with F, and a RING_SILENT with the entry
cause of the player for each of its ringer terms that is refused (R26, R110, log entry 35). -/
def State.returnNotices (s : State) (turrets : List Nat) : List Notice :=
  turrets.flatMap fun u =>
    { cls := .turret, kind := .turretPresent, frame := s.src.F, object := some u, turret := some u } ::
      ((s.returnAnswers s.mix (s.returnAsks turrets)).filter fun a => a.1.1 == u && !a.2).map fun a =>
        silentNotice s a.1.2 u (s.player a.1.2).entry

/-- From `s` to `t` frames of some sources are accepted, in this order, and the turrets hear of them: an enabled turret that names one is
PRESENT with run 0, and no other has changed; one that becomes PRESENT has its notice, and its ringer terms are asked, those accepted
standing on the players' lists; where none does, the mix, the ring unit and the notices are as they were (R26, R110). -/
structure Heard (s t : State) (sources : List Nat) : Prop where
  turrets : ∀ u, t.turret u =
    if u < 64 ∧ (s.turret u).record.enabled = true ∧ ∃ i ∈ sources, (s.turret u).record.names i = true then
      { s.turret u with presence := .present, run := 0 }
    else s.turret u
  mix : t.mix = s.mix.askEach ((s.returnAsks (s.returning sources)).map fun a => s.ringAdd a.2 a.1)
  players : ∀ n, t.player n = { s.player n with
    terms := (s.player n).terms ++
      ((s.returnAnswers s.mix (s.returnAsks (s.returning sources))).filter fun a => a.1.2 == n && a.2).map fun a =>
        (a.1.1, (s.turret a.1.1).record.slotRinger) }
  programs : t.ring.programs = s.ring.programs
  notices : Handed s (s.returnNotices (s.returning sources)) t
  still : s.returning sources = [] → t.mix = s.mix ∧ t.ring = s.ring ∧ t.notice = s.notice

/-! ### Turret loss -/

/-- The removals of a turret's ringer terms from every player's list, each in the slot where it was placed (R110). -/
def State.turretDrops (s : State) (u : Nat) : List Edit :=
  (List.range 128).flatMap fun n => ((s.player n).terms.filter fun e => e.1 == u).map fun e =>
    Edit.dropTerm e.2 { kind := .cadence n, gain := (s.lineAt n).record.ringGain } .ring

/-- The edits that the loss of a turret asks: its ringer terms on every player's list, the leaves of its handsets, and those of its
memberships in ascending group order (R85, R97, R110, R124, R131): removals, which come to the same in any order. -/
def State.lossEdits (s : State) (u : Nat) : List Edit :=
  s.turretDrops u ++
  ([u * 2, u * 2 + 1].flatMap fun h =>
    match s.occupancy h with
    | .line n => leaveEdits s n h
    | _ => []) ++
  (List.range 32).flatMap fun g => (((s.groupAt g).member u).toList.flatMap (memberDrops g))

/-! ### The work of a close -/

/-- A turret that a close makes LOST under a loss limit (R27). -/
def State.Losing (s : State) (limit u : Nat) : Prop :=
  (s.turret u).record.enabled = true ∧ (s.turret u).presence = .present ∧ limit ≤ min 65535 ((s.turret u).run + 1)

/-- A line that a close under the floor record in force takes from RELEASING to INBOUND_RING (R93). -/
def State.Releases (s : State) (n : Nat) : Prop :=
  (s.lineAt n).record.enabled = true ∧ (s.lineAt n).status = .releasing ∧
    s.plan.floor.releaseLimit ≤ (s.lineAt n).releaseTimer + 1

/-- What a line is after the counts and limits of a close that takes no handset off it: the ring run of a ringing line grows, and at
its limit makes it UNANSWERED; the release timer of a RELEASING line grows, and at its limit makes it ring; another line is as it was
(R93, R96, R101). -/
def State.Counted (s : State) (l l' : Line) : Prop :=
  (l.record.enabled = true → l.status = .inboundRing →
    l' =
      if l.record.ringLimit ≠ 0 ∧ l.ringRun + 1 = l.record.ringLimit * 100 then
        { l with ringRun := l.ringRun + 1, status := .unanswered }
      else { l with ringRun := l.ringRun + 1 }) ∧
  (l.record.enabled = true → l.status = .releasing →
    l' =
      if s.plan.floor.releaseLimit ≤ l.releaseTimer + 1 then
        { l with releaseTimer := l.releaseTimer + 1, status := .inboundRing, ringRun := 0 }
      else { l with releaseTimer := l.releaseTimer + 1 }) ∧
  (l.record.enabled = false ∨ (l.status ≠ .inboundRing ∧ l.status ≠ .releasing) → l' = l)

/-- The handsets that stay on a line when some turrets are LOST, in join order (R97). -/
def Line.staying (l : Line) (lost : List Nat) : List Nat := l.joined.filter fun h => !lost.contains (h / 2)

/-- A close takes the last handset off a line with a channel to free, some turrets being LOST at it: from OUTBOUND_WAIT or FAR_CLEARED
the line goes to IDLE (R85, R97, R98). -/
def Line.Emptied (l : Line) (lost : List Nat) : Prop :=
  l.joined ≠ [] ∧ l.staying lost = [] ∧ (l.status = .outboundWait ∨ l.status = .farCleared)

/-- The turrets that a close makes LOST under a loss limit, in ascending number (R27, log entry 12). -/
def State.Loses (s : State) (limit : Nat) (lost : List Nat) : Prop :=
  lost.Pairwise (· < ·) ∧ ∀ u, u ∈ lost ↔ u < 64 ∧ s.Losing limit u

/-- A losing close frees the channel of an object: of a line whose last handset is taken off it in OUTBOUND_WAIT or FAR_CLEARED, or of
a group whose last turret member is (R85, R98, R124, R131). -/
def State.LossFrees (s : State) (lost : List Nat) : Obj → Prop
  | .line n => (s.lineAt n).Emptied lost
  | .group g => g < 32 ∧ (s.groupAt g).members ≠ [] ∧ ∀ m ∈ (s.groupAt g).members, m.turret ∈ lost

/-- A close frees the channel of a line by its release timeout (R93, R98). -/
def State.LimitFrees (s : State) : Obj → Prop
  | .line n => n < 128 ∧ s.Releases n
  | .group _ => False

/-! ### The notices of a close -/

/-- The notices of the guards that a close from `s` to `t` changes, in ascending source, carrying P (R39, R40, R41). -/
def guardNotices (s t : State) : List Notice :=
  (List.range 384).filterMap fun i =>
    let old := (s.source i).det.guarded
    let new := (t.source i).det.guarded
    if old = new then none
    else some { cls := .source, kind := if new then .guardOn else .guardOff, frame := t.P, object := some i,
                old := some (if old then 1 else 0), new := some (if new then 1 else 0) }

/-- The UNKEYEDs of the members whose keyed run has reached the key limit at a close, in ascending group and join order, `gone` being
the turrets LOST before the key timeouts (R129, R130). -/
def keyNotices (s t : State) (gone : List Nat) : List Notice :=
  (List.range 32).flatMap fun g =>
    let x := s.groupAt g
    (x.members.filter fun m => x.record.enabled && x.record.kind == .box && x.record.keyLimit != 0 && m.keyed &&
        decide (x.record.keyLimit ≤ m.keyedRun) && !gone.contains m.turret).map fun m =>
      { cls := .group, kind := .unkeyed, cause := some .keyTimeout, frame := t.src.F, object := some g, turret := some m.turret,
        old := some 1, new := some 0 }

/-- The LINE_STATEs of the ring limits and release timeouts that a close from `s` to `t` takes, in ascending line, the RING_SILENTs of
a second ring after its own (R80, R93, R96, R108, log entry 12). -/
def limitNotices (s t : State) (silent : Nat → List Notice) : List Notice :=
  (List.range 128).flatMap fun n =>
    let old := (s.lineAt n).status
    let new := (t.lineAt n).status
    if old = .inboundRing ∧ new = .unanswered then [changeNotice t n old new .ringLimit]
    else if old = .releasing ∧ new = .inboundRing then changeNotice t n old new .releaseTimeout :: silent n
    else []

/-- The notices of the turrets that a close from `s` to `t` makes LOST, each turret's together: TURRET_LOST carrying P, the LINE_STATEs
of its handsets, and its MEMBER_LEFTs in ascending group (R27, R80, R97, R124, R131, log entries 12 and 36). -/
def lossNotices (s t : State) (lost : List Nat) (code : Nat → Code) : List Notice :=
  lost.flatMap fun u =>
    [{ cls := .turret, kind := .turretLost, frame := t.P, object := some u, turret := some u }] ++
    ([u * 2, u * 2 + 1].flatMap fun h =>
      match s.occupancy h with
      | .line n =>
        let l := s.lineAt n
        let staying := l.joined.filter fun k => !(lost.contains (k / 2) && decide (k ≤ h))
        [handsetNotice t n h l.status (if staying = [] then l.status.left .turretLost else l.status) .turretLost (code h)]
      | _ => []) ++
    (List.range 32).filterMap fun g => ((s.groupAt g).member u).map fun m =>
      let before := ((s.groupAt g).members.filter fun o => !(lost.contains o.turret && decide (o.turret < u))).length
      { cls := .group, kind := .memberLeft, cause := some .turretLost, frame := t.src.F, object := some g, turret := some u,
        handset := attachHandset u m.attach, old := some before, new := some (before - 1) }

/-- The notices that a close from `s` to `t` hands on before its results, nothing being staged and no restart pending, in order:
CLOCK_RESTORED, the guards, the key timeouts, the line limits and OUTAGE_END by the order of the close, and the turret losses where
that order puts them (R3, R41, R80, R130, R131, R143, R144, R188, log entries 11 and 12). -/
def closeNotices (s t : State) (o : CloseOrder) (lost : List Nat) (code : Nat → Code) (silent : Nat → List Notice) : List Notice :=
  let losses (m : LossMoment) := if o.loss = m then lossNotices s t lost code else []
  let gone := if o.loss = .beforeStaging ∨ o.loss = .beforeTimeouts then lost else []
  (if s.src.clockLost then [{ cls := .floor, kind := .clockRestored, frame := t.src.F }] else []) ++ losses .beforeStaging ++
  guardNotices s t ++ losses .beforeTimeouts ++ keyNotices s t gone ++ losses .beforeLatches ++ losses .beforeListing ++
  (if o.timeoutsAfterListing then [] else limitNotices s t silent) ++
  (if s.recorder.status = .outage ∧ min s.plan.floor.margin (s.recorder.cap - 1) ≤ s.recorder.free then
    [{ cls := .record, kind := .outageEnd, cause := some .ringFree, frame := t.P, old := some RecorderState.outage.code,
       new := some RecorderState.healthy.code }]
  else []) ++
  (if o.timeoutsAfterListing then limitNotices s t silent else []) ++ losses .afterListing

/-- What a close hands on after a state `w` are the results of the CLEAR_COUNTS requests that it answers, and no more: its images write
no notice (R184, R188). -/
def State.ResultsOnly (s w t : State) : Prop :=
  t.notice.rings = (w.results .clearCounts s.plan.clears).notice.rings ∧
    t.noticeBursts = (w.results .clearCounts s.plan.clears).noticeBursts

/-- The onset of an onset rule: at least k of the newest n outcomes are loud (R36). -/
def OnsetDue : OnsetRule → List Bool → Prop
  | .oneOf1, h => 1 ≤ (h.take 1).count true
  | .twoOf3, h => 2 ≤ (h.take 3).count true
  | .fourOf8, h => 4 ≤ (h.take 8).count true
  | .sevenOf8, h => 7 ≤ (h.take 8).count true

/-- What a source is after the close that begins P, at which it was `x`, no record of it being staged: its playout status by its
tags, the one count that grows, and the frame level (R20 to R23, R32), then the detection steps on that level (R31, R33 to R40). That
the frame level of a TONE or disabled source is 0 is the model's choice (log entry 37). -/
structure Closed (P : FrameNo) (x y : Source) : Prop where
  kept : y.record = x.record ∧ y.tags = x.tags ∧ y.levels = x.levels ∧ y.arrivals = x.arrivals
  present : x.intake = true → x.tag (P.toNat % 8) = some P →
    y.status = .present ∧ y.level = x.levelTag (P.toNat % 8) ∧ y.plays = { x.plays with present := x.plays.present + 1 }
  concealed : x.intake = true → x.tag (P.toNat % 8) ≠ some P → x.record.conceal = .holdOne →
    x.tag ((P - 1).toNat % 8) = some (P - 1) →
    y.status = .concealed ∧ y.level = x.levelTag ((P - 1).toNat % 8) ∧
      y.plays = { x.plays with concealed := x.plays.concealed + 1 }
  silent : x.intake = true → x.tag (P.toNat % 8) ≠ some P →
    (x.record.conceal = .never ∨ x.tag ((P - 1).toNat % 8) ≠ some (P - 1)) →
    y.status = .silent ∧ y.level = 0 ∧ y.plays = { x.plays with silent := x.plays.silent + 1 }
  tone : x.record.enabled = true → x.record.kind = .tone →
    y.status = .present ∧ y.level = 0 ∧ y.plays = x.plays ∧
      y.det = { smoothed := 0, peak := 0, history := List.replicate 8 false, flag := false, hang := 0, guardRun := 0,
                guarded := false }
  disabled : x.record.enabled = false → y.status = .silent ∧ y.level = 0 ∧ y.plays = x.plays ∧ y.det = x.det
  smoothed : x.intake = true → (y.det.smoothed : Int) = x.det.smoothed + Int.fdiv ((y.level : Int) - x.det.smoothed) 8
  peak : x.intake = true → y.det.peak = max x.det.peak y.level
  history : x.intake = true → y.det.history = (decide (x.record.threshold ≤ y.level) :: x.det.history).take 8
  turnsOn : x.intake = true → x.det.flag = false → OnsetDue x.record.onset y.det.history →
    y.det.flag = true ∧ y.det.hang = x.record.hang
  staysOff : x.intake = true → x.det.flag = false → ¬ OnsetDue x.record.onset y.det.history →
    y.det.flag = false ∧ y.det.hang = 0
  loud : x.intake = true → x.det.flag = true → x.record.threshold ≤ y.level → y.det.flag = true ∧ y.det.hang = x.record.hang
  quiet : x.intake = true → x.det.flag = true → y.level < x.record.threshold →
    y.det.hang = x.det.hang - 1 ∧ (y.det.flag = true ↔ y.det.hang ≠ 0)
  guardRun : x.intake = true → y.det.guardRun = if y.det.flag = true then min 65535 (x.det.guardRun + 1) else 0
  guarded : x.intake = true →
    (y.det.guarded = true ↔ x.record.guardLimit ≠ 0 ∧ y.det.flag = true ∧
      (x.det.guarded = true ∨ x.record.guardLimit ≤ y.det.guardRun))

/-- What a player is after the close at which it was `p`, on a program, where its ring neither starts nor stops (R106, R107). -/
structure Played (prog : Program) (p q : Player) : Prop where
  stopped : p.phase = .stopped → q = { p with gate := false, tone := none }
  begun : ∀ st, p.phase = .starting → prog.steps[0]? = some st →
    q = { p with phase := .stepping, index := 0, left := st.duration, gate := st.gate, tone := st.tone }
  waiting : p.phase = .starting → prog.steps = [] → q = { p with index := 0, gate := false, tone := none }
  counted : ∀ st, p.phase = .stepping → 1 < p.left → prog.steps[p.index]? = some st →
    q = { p with left := p.left - 1, gate := st.gate, tone := st.tone }
  next : ∀ st, p.phase = .stepping → p.left ≤ 1 → prog.steps[p.index + 1]? = some st →
    q = { p with index := p.index + 1, left := st.duration, gate := st.gate, tone := st.tone }
  again : ∀ st, p.phase = .stepping → p.left ≤ 1 → prog.steps.length ≤ p.index + 1 → prog.ending = .repeats →
    prog.steps[0]? = some st → q = { p with index := 0, left := st.duration, gate := st.gate, tone := st.tone }
  last : ∀ st, p.phase = .stepping → p.left ≤ 1 → prog.steps.length ≤ p.index + 1 → prog.ending = .holdLast →
    prog.steps[p.index]? = some st → q = { p with phase := .holding, left := 0, gate := st.gate, tone := st.tone }
  held : ∀ st, p.phase = .holding → prog.steps[p.index]? = some st → q = { p with gate := st.gate, tone := st.tone }

/-- A box member after the key work of a close under a key limit (R129). -/
def Member.afterClose (limit : Nat) (m : Member) : Member :=
  if m.keyed then
    if limit ≠ 0 ∧ limit ≤ m.keyedRun then { m with keyed := false, keyedRun := 0 }
    else { m with keyedRun := min 65535 (m.keyedRun + 1) }
  else m

/-! ### Plan records -/

/-- The bytes of a staged record pass the range step of its kind (R177). -/
def RecordId.inRange (s : State) (d : Burst) : RecordId → Bool
  | .floor => (parseFloor d).isSome
  | .view _ => (parseView d).isSome
  | .turret _ => (parseTurret d).isSome
  | .program _ => (parseProgram d).isSome
  | .group _ => (parseGroup d).isSome
  | .source _ => (parseSource d).isSome
  | .recipe _ => (parseRecipe d).isSome
  | .line _ => (parseLine d).isSome
  | .bank0 n => (parseBank d (s.lineAt n).bank1).isSome
  | .bank1 n => (parseBank d (s.lineAt n).bank0).isSome

/-- `x` is what the apply step leaves of `s` for a record that is in range and not held, `c` its code: the record in force is the
new one, with what its owner does at the application and the notices that it hands on (R11, R24, R41, R42, R54, R74, R75, R80, R108,
R110, R111, R115, R180, R181); with another code nothing has changed. -/
def Applies (s x : State) (d : Burst) (c : Code) : RecordId → Prop
  | .floor => ∀ r, parseFloor d = some r → c = .applied ∧ x.plan.floor = r ∧ x.plan.staging = s.plan.staging ∧
      x.recorder = { s.recorder with
        fresh := s.recorder.fresh && !(s.plan.floor.timeMode == .strobe && r.timeMode == .frames) } ∧
      x.src = s.src ∧ x.mix = s.mix ∧ x.line = s.line ∧ x.group = s.group ∧ x.notice = s.notice
  | .view v => ∀ r, parseView d = some r → c = .applied ∧
      x.view v = (if r = (s.view v).record then s.view v else { record := r }) ∧
      (∀ w, w ≠ v → x.view w = s.view w) ∧ x.src.sources = s.src.sources ∧ x.mix = s.mix ∧ x.line = s.line ∧ x.plan = s.plan ∧
      NoNotice s x
  | .turret t => ∀ r, parseTurret d = some r → c = .applied ∧ (r = (s.turret t).record → x = s) ∧
      (r ≠ (s.turret t).record →
        x.turret t = { record := r, presence := .unknown, run := 0 } ∧ x.mix = s.mix.askEach (s.turretDrops t) ∧
        ∀ n < 128, x.player n = { s.player n with terms := (s.player n).terms.filter fun e => e.1 != t }) ∧
      (∀ u, u ≠ t → x.turret u = s.turret u) ∧ x.line = s.line ∧ x.group = s.group ∧ x.plan = s.plan ∧ NoNotice s x
  | .program k => ∀ r, parseProgram d = some r → c = .applied ∧ x.program k = r ∧
      (∀ j, j ≠ k → x.program j = s.program j) ∧
      (∀ n, (s.lineAt n).record.program ≠ k → x.player n = s.player n) ∧
      (∀ n st, (s.lineAt n).record.program = k → (s.player n).phase = .stepping → r.steps[(s.player n).index]? = some st →
        x.player n = { s.player n with left := min (s.player n).left st.duration }) ∧
      (∀ n, (s.lineAt n).record.program = k → ((s.player n).phase = .stepping ∨ (s.player n).phase = .holding) →
        r.steps.length ≤ (s.player n).index → x.player n = { s.player n with phase := .starting, index := 0 }) ∧
      x.mix = s.mix ∧ x.line = s.line ∧ x.plan = s.plan ∧ NoNotice s x
  | .source i => ∀ r, parseSource d = some r → c = .applied ∧
      (r.enabled = true → ((s.source i).record.enabled = false ∨ r.kind ≠ (s.source i).record.kind) →
        x.source i = { record := r }) ∧
      (r.enabled = false → (s.source i).record.enabled = true →
        x.source i = { s.source i with record := r, det := { (s.source i).det with guarded := false } }) ∧
      ((r.enabled = (s.source i).record.enabled ∧ (r.enabled = true → r.kind = (s.source i).record.kind)) →
        x.source i = { s.source i with record := r }) ∧
      Handed s
        (if (s.source i).record.enabled = true ∧ (s.source i).det.guarded = true ∧
            (r.enabled = false ∨ r.kind ≠ (s.source i).record.kind) then
          [{ cls := .source, kind := .guardOff, frame := s.P, object := some i, old := some 1, new := some 0 }]
        else []) x ∧
      (∀ j, j ≠ i → x.source j = s.source j) ∧ x.src.turrets = s.src.turrets ∧ x.mix = s.mix ∧ x.line = s.line ∧ x.plan = s.plan
  | .recipe u => ∀ r, parseRecipe d = some r →
      (12 < r.planned.length + (s.slot u).dynOccupancy → c = .termsFull ∧ x = s) ∧
      (r.planned.length + (s.slot u).dynOccupancy ≤ 12 → c = .applied ∧
        x.slot u = { s.slot u with enabled := r.enabled, volume := r.volume, planned := r.planned }) ∧
      (∀ w, w ≠ u → x.slot w = s.slot w) ∧ x.mix.buses = s.mix.buses ∧ x.line = s.line ∧ x.plan = s.plan ∧ NoNotice s x
  | .line n => ∀ r, parseLine d = some r →
      (r = (s.lineAt n).record → c = .applied ∧ x = s) ∧ (c ≠ .applied → x = s ∧ (c = .range ∨ c = .termsFull)) ∧
      (c = .applied → (x.lineAt n).record = r) ∧ (r.enabled = false → c = .applied) ∧
      (∀ edits, r ≠ (s.lineAt n).record → r.enabled = true →
        edits = (if (s.lineAt n).record.enabled then lineChanges n (s.lineAt n).record r
          else [.addContrib n { source := r.far, gain := r.rxGain, kind := .opened },
            .addTerm r.out { kind := .bus n (some r.far), gain := 16384 } .line]) →
        (∀ e, s.mix.batch true edits = .error e → c = e.recordCode) ∧
        (∀ mx, s.mix.batch true edits = .ok mx → c = .applied ∧ x.mix.buses = mx.buses ∧
          (∀ u, x.slot u = { mx.slots.get {} u with adds := (x.slot u).adds } ∧
            (x.slot u).adds.filter (fun a => a.origin != .ring) =
              (mx.slots.get {} u).adds.filter fun a => a.origin != .ring) ∧
          ((s.lineAt n).record.enabled = true ∨ (s.lineAt n).inbound ≠ .seize → x.mix = mx))) ∧
      (r.enabled = false → (s.lineAt n).record.enabled = true →
        x.mix = s.mix.askEach [.dropContrib n (s.lineAt n).record.far,
          .dropTerm (s.lineAt n).record.out { kind := .bus n (some (s.lineAt n).record.far), gain := 16384 } .line]) ∧
      (r ≠ (s.lineAt n).record → r.enabled = false → (s.lineAt n).record.enabled = false →
        x = s.setLine n { s.lineAt n with record := r }) ∧
      (c = .applied → r.enabled = true → (s.lineAt n).record.enabled = false →
        x.lineAt n = { record := r, bank0 := (s.lineAt n).bank0, bank1 := (s.lineAt n).bank1, inbound := (s.lineAt n).inbound,
                       status := match (s.lineAt n).inbound with
                         | .clear => .idle
                         | .seize => .inboundRing
                         | .fault => .outOfService } ∧
        (s.path.active = true → ∃ f ∈ x.path.ownWait, f.owner = .signal n ∧ f.addr = s.path.address (outboundOffset n) ∧
          f.op = fullWrite (encodeOutbound .clear s.src.F)) ∧
        (∀ y mx edits, edits = [.addContrib n { source := r.far, gain := r.rxGain, kind := .opened },
              .addTerm r.out { kind := .bus n (some r.far), gain := 16384 } .line] →
            s.mix.batch true edits = .ok mx → y = { s.setLine n (x.lineAt n) with mix := mx } →
          ((s.lineAt n).inbound = .seize → RingStarts y x n .plan) ∧
          Handed s (match (s.lineAt n).inbound with
            | .clear => []
            | .seize => changeNotice s n .idle .inboundRing .plan :: y.ringSilents n .plan
            | .fault => [changeNotice s n .idle .outOfService .plan]) x)) ∧
      ((c ≠ .applied ∨ r.enabled = false ∨ (s.lineAt n).record.enabled = true) →
        Handed s
          (if r.enabled = false ∧ (s.lineAt n).record.enabled = true ∧ (s.lineAt n).status = .outOfService then
            [changeNotice s n .outOfService .idle .plan]
          else []) x) ∧
      (c = .applied → r.enabled = true → (s.lineAt n).record.enabled = true → x.lineAt n = { s.lineAt n with record := r }) ∧
      (c = .applied → r.enabled = false → (s.lineAt n).record.enabled = true → (s.lineAt n).status = .outOfService →
        (x.lineAt n).status = .idle) ∧
      (∀ m, m ≠ n → x.lineAt m = s.lineAt m) ∧ x.src = s.src ∧ x.group = s.group ∧ x.plan = s.plan
  | .bank0 n => ∀ b, parseBank d (s.lineAt n).bank1 = some b → c = .applied ∧ x = s.setLine n { s.lineAt n with bank0 := b }
  | .bank1 n => ∀ b, parseBank d (s.lineAt n).bank0 = some b → c = .applied ∧ x = s.setLine n { s.lineAt n with bank1 := b }
  | .group g => ∀ r, parseGroup d = some r →
      (r = (s.groupAt g).record → c = .applied ∧ x = s) ∧ (c ≠ .applied → x = s ∧ (c = .range ∨ c = .termsFull)) ∧
      (c = .applied → (x.groupAt g).record = r) ∧ (r.enabled = false → c = .applied) ∧
      (∀ edits, r ≠ (s.groupAt g).record → r.enabled = true →
        edits = (if (s.groupAt g).record.enabled then
            feedDrops g ((s.groupAt g).record.feeds.filter fun f => f ∉ r.feeds) ++
              feedAdds g (r.feeds.filter fun f => f ∉ (s.groupAt g).record.feeds)
          else feedAdds g r.feeds) →
        (∀ e, s.mix.batch true edits = .error e → c = e.recordCode) ∧
        (∀ mx, s.mix.batch true edits = .ok mx → c = .applied ∧ x.mix = mx ∧
          x.groupAt g = (if (s.groupAt g).record.enabled then { s.groupAt g with record := r } else { record := r }))) ∧
      (r.enabled = false → x.groupAt g = { s.groupAt g with record := r } ∧
        x.mix = (if (s.groupAt g).record.enabled then s.mix.askEach (feedDrops g (s.groupAt g).record.feeds) else s.mix)) ∧
      (∀ k, k ≠ g → x.groupAt k = s.groupAt k) ∧ x.src = s.src ∧ x.line = s.line ∧ x.plan = s.plan ∧ NoNotice s x

/-! ### Invariants -/

/-- A response queue holds at most 16 entries (R166). -/
def QueuesBounded (s : State) : Prop := ∀ m, (s.queue m).length ≤ 16

/-- The staging list holds at most 64 entries, no two for one address, each for a record address (R174). -/
def StagingOk (s : State) : Prop :=
  s.plan.staging.length ≤ 64 ∧ (s.plan.staging.map (·.record)).Nodup ∧
    ∀ e ∈ s.plan.staging, (recordId e.record).isSome

/-- No line or group holds two record channels (R138). -/
def ChannelsExclusive (s : State) : Prop :=
  ∀ c < 64, ∀ e < 64, ∀ o, (s.channel c).bound = some o → (s.channel e).bound = some o → c = e

/-- The frame-in-second lies in 0 to 999 (R155). -/
def TimeOk (s : State) : Prop := s.recorder.frameInSecond ≤ 999

/-- The scalars of a floor record lie in the ranges of R180, and every class has one of the four rings. -/
def FloorRec.Ok (f : FloorRec) : Prop :=
  (1 ≤ f.lag ∧ f.lag ≤ 6) ∧ (1 ≤ f.lossLimit ∧ f.lossLimit ≤ 1000) ∧ (100 ≤ f.releaseLimit ∧ f.releaseLimit ≤ 10000) ∧
  (1 ≤ f.margin ∧ f.margin ≤ 65535) ∧ (64 ≤ f.recordCap ∧ f.recordCap ≤ 65536) ∧
  (∀ k, 16 ≤ f.noticeCap k ∧ f.noticeCap k ≤ 1024) ∧ ∀ c, f.route c ≤ 3

/-- The floor record in force is in its ranges, and the lag the part works with is 1 to 6 (R2, R180). -/
def FloorOk (s : State) : Prop := s.plan.floor.Ok ∧ 1 ≤ s.src.lag ∧ s.src.lag ≤ 6

/-- The indices of a notice ring lie below its capacity, 16 to 1024, and its discard count is a 16-bit number (R190). -/
def Ring.Ok (r : Ring) : Prop :=
  16 ≤ r.cap ∧ r.cap ≤ 1024 ∧ r.producer < r.cap ∧ r.consumer < r.cap ∧ r.published < r.cap ∧ r.discards ≤ 65535

/-- The notice rings and the record ring have their indices in range, and the floor record in force keeps them so at the next
restart (R150, R190). -/
def RingsOk (s : State) : Prop :=
  s.plan.floor.Ok ∧ (∀ k, (s.noticeRing k).Ok) ∧ 64 ≤ s.recorder.cap ∧ s.recorder.cap ≤ 65536 ∧
    s.recorder.producer < s.recorder.cap ∧ s.recorder.consumer < s.recorder.cap

/-- A recipe has at most 6 planned terms and an occupancy of at most 12, and a contributor list holds at most its limit with no
source twice, in force as after the pending edits (R47, R52, R55, R59). The occupancies count the pending edits, as R55 has it: a
recipe applied to a slot whose terms are marked for removal can have more than 12 terms until the next close. -/
def MixOk (s : State) : Prop :=
  (∀ u, (s.slot u).planned.length ≤ 6 ∧ (s.slot u).occupancy ≤ 12) ∧
  ∀ b, (s.bus b).occupancy ≤ busLimit b ∧ (s.bus b).inForce.length ≤ busLimit b ∧
    ((s.bus b).after.map (·.source)).Nodup ∧ ((s.bus b).inForce.map (·.source)).Nodup

/-- The occupancy table, the joined lists and the member lists agree: a handset is on a line exactly where its entry names the
line, and a member's handset is a group's exactly where its entry names the group; a joined list holds no handset twice and
respects the line's privacy, and only an enabled line in a state that has handsets joined, or an enabled group, holds one (R73,
R78, R79, R115, R117). -/
def HandsetsOk (s : State) : Prop :=
  (∀ n h, h ∈ (s.lineAt n).joined ↔ s.occupancy h = .line n) ∧
  (∀ n, (s.lineAt n).joined.Nodup ∧ (s.lineAt n).joined.length ≤ (s.lineAt n).record.privacy.limit ∧
    ((s.lineAt n).joined ≠ [] → (s.lineAt n).record.enabled = true ∧
      ((s.lineAt n).status = .outboundWait ∨ (s.lineAt n).status = .connected ∨ (s.lineAt n).status = .farCleared))) ∧
  ∀ g, (∀ h, s.occupancy h = .group g ↔ ∃ m ∈ (s.groupAt g).members, attachHandset m.turret m.attach = some h) ∧
    ((s.groupAt g).record.enabled = false → (s.groupAt g).members = [])

/-- The inbound code that an enabled line holds in a state (R76). -/
def LineStatus.heldCode : LineStatus → Signal
  | .idle | .outboundWait | .farCleared => .clear
  | .inboundRing | .unanswered | .connected | .held | .releasing => .seize
  | .outOfService => .fault

/-- The states in which a line keeps its record channel (R79, R98). -/
def LineStatus.keepsChannel : LineStatus → Bool
  | .outboundWait | .connected | .held | .farCleared | .releasing => true
  | .idle | .inboundRing | .unanswered | .outOfService => false

/-- The held inbound code of an enabled line follows from its state (R76). -/
def SignalsFollow (s : State) : Prop := ∀ n, (s.lineAt n).record.enabled = true → (s.lineAt n).inbound = (s.lineAt n).status.heldCode

/-- A line's player runs exactly while the enabled line is in INBOUND_RING, and the list of a STOPPED player is empty (R105, R109). -/
def RingsFollow (s : State) : Prop :=
  ∀ n, ((s.player n).phase ≠ .stopped ↔ (s.lineAt n).record.enabled = true ∧ (s.lineAt n).status = .inboundRing) ∧
    ((s.player n).phase = .stopped → (s.player n).terms = [])

/-- The recording law (R99, R132, R133): an enabled REQUIRED line is in one of the five states of a call only while it holds a record
channel, and a REQUIRED group has turret members only while it holds one. -/
def RecordingLaw (s : State) : Prop :=
  (∀ n, (s.lineAt n).record.enabled = true → (s.lineAt n).record.mode = .required → (s.lineAt n).status.keepsChannel = true →
    s.HoldsChannel (.line n)) ∧
  ∀ g, (s.groupAt g).record.mode = .required → (s.groupAt g).members ≠ [] → s.HoldsChannel (.group g)

/-- A channel is bound to a line only while the line is enabled and in a state that keeps it, and to a group only while the group has
turret members; a line or group of record mode NONE has none (R79, R98, R99, R132, R138). -/
def ChannelsFollow (s : State) : Prop :=
  (∀ n, s.HoldsChannel (.line n) → (s.lineAt n).record.enabled = true ∧ (s.lineAt n).status.keepsChannel = true ∧
    (s.lineAt n).record.mode ≠ .never) ∧
  ∀ g, s.HoldsChannel (.group g) → (s.groupAt g).members ≠ [] ∧ (s.groupAt g).record.mode ≠ .never

/-- A group's member list holds at most one member per turret, of the 64 (R117). -/
def MembersOk (s : State) : Prop :=
  ∀ g, ((s.groupAt g).members.map (·.turret)).Nodup ∧ ∀ m ∈ (s.groupAt g).members, m.turret ≤ 63

end Sys2Proof.Machine
end

