-- ==== Sys2Proof/Certificates/Slice0/Obligations.lean ====
section
/-!
DEFINITION. The statements about the model. Each docstring names the rules it formalises; where a statement speaks of a choice of
the model's own, it names the log entry. The words of the statements are those of Safety.lean and of the shared operations.
-/

open Sys2Proof Sys2Proof.Machine

/-! ### The queue of commands and the pins -/

/-- A step takes the command at the front of the queue and runs it with the queue's rest; an empty queue idles. Every command, in
every state, ends in a next state, and leaves the queue of commands as it was (log entry 9). -/
def Obligations.StepRunsFront : Prop :=
  (∀ s : State, (s.pending = [] → step s = .next s) ∧
    ∀ c rest, s.pending = c :: rest → step s = exec c { s with pending := rest }) ∧
  ∀ (c : Instr) (s : State), ∃ t, exec c s = .next t ∧ t.pending = s.pending

/-- RESET_ASSERT changes only that RESET is asserted (and that no response is returned). From then on, and while decoding is off, a
master burst of any address is forwarded and handed to no block, and no burst of the part's own and no fault is taken (R162). Until
the release no command but RESET_RELEASE changes a block, but for what memory's answers bring to work begun before: the frames of
listen reads and records in progress, the listen reads that complete, and the fault mark of an image being written (R162, log entry
15). -/
def Obligations.ResetAsserted : Prop :=
  (∀ s : State, ∃ t, exec .resetAssert s = .next t ∧ t = { s with path.resetAsserted := true, path.returned := [] }) ∧
  (∀ (s : State) (m addr : Nat) (op : BurstOp), s.path.active = false → s.queueFull m = false →
    s.takeBurst m addr op = s.forward m addr op .nobody) ∧
  (∀ (s : State) (o : Owner) (offset : Nat) (op : BurstOp), s.path.active = false → s.issue o offset op = s) ∧
  (∀ (s : State) (o : Owner), s.path.active = false → s.countFault o = s) ∧
  ∀ (c : Instr) (s t : State), s.path.resetAsserted = true → exec c s = .next t → (∀ b d, c ≠ .resetRelease b d) →
    t.line = s.line ∧ t.ring = s.ring ∧ t.group = s.group ∧ t.plan = s.plan ∧
    t.src = { s.src with levelImage := t.src.levelImage } ∧
    t.src.levelImage.map (fun j => (j.frame, j.served)) = s.src.levelImage.map (fun j => (j.frame, j.served)) ∧
    t.notice = { s.notice with image := t.notice.image } ∧
    t.notice.image.map (fun j => (j.frame, j.served)) = s.notice.image.map (fun j => (j.frame, j.served)) ∧
    t.mix = { s.mix with listens := t.mix.listens } ∧
    (t.mix.listens.map fun l => (l.job.id, l.master, l.entry)).Sublist (s.mix.listens.map fun l => (l.job.id, l.master, l.entry)) ∧
    t.recorder = { s.recorder with records := t.recorder.records } ∧
    t.recorder.records.map (fun r => (r.batch, r.channel, r.object, r.frame)) =
      s.recorder.records.map (fun r => (r.batch, r.channel, r.object, r.frame))

/-- RESET_RELEASE samples the straps and gives every block its power-on reset values; memory, the queue of commands and the model's
own burst counter stay. The bursts not yet answered stay in flight to complete as they were begun, with the entries and the listen
reads that wait for them, an image's burst belonging to no image any more (R161, R162, R172, log entry 20). -/
def Obligations.ResetRelease : Prop :=
  ∀ (s : State) (b : BitVec 8) (d : Bool), ∃ t, exec (.resetRelease b d) s = .next t ∧
    t.path.base = b ∧ t.path.decodeEn = d ∧ t.path.resetAsserted = false ∧ t.mem = s.mem ∧ t.pending = s.pending ∧
    t.src = State.reset.src ∧ t.mix = { State.reset.mix with listens := s.mix.listens } ∧ t.line = State.reset.line ∧
    t.ring = State.reset.ring ∧ t.group = State.reset.group ∧ t.recorder = State.reset.recorder ∧
    t.plan = State.reset.plan ∧ t.notice = State.reset.notice ∧ t.path.partialWrites = 0 ∧ t.path.memoryFaults = 0 ∧
    t.path.faultMark = false ∧ t.path.nextId = s.path.nextId ∧ t.path.returned = [] ∧
    (∀ m, t.queue m = s.queue m) ∧
    t.path.unanswered.map (fun f => (f.id, f.addr, f.op)) = s.path.unanswered.map (fun f => (f.id, f.addr, f.op)) ∧
    (∀ f ∈ s.path.unanswered, f.owner ≠ .levelImage → f.owner ≠ .stateImage → f ∈ t.path.unanswered) ∧
    (∀ f ∈ t.path.unanswered, f.owner ≠ .levelImage ∧ f.owner ≠ .stateImage)

/-- What reset leaves: F 0, L 2, views disabled, every source disabled with its tags NONE and its detection and counts clear,
every slot disabled at volume 16384 with no terms, every bus empty, every line disabled in IDLE, players STOPPED on empty
programs, every handset vacant, every group disabled with no member, every channel free, the recorder HEALTHY with an empty ring
of 4096 and the floor time 0, notice rings of 256 empty, the defaults of the floor record, nothing staged, pending or in flight;
and every invariant of the model holds (R1, R2, R28, R46, R52, R72, R102, R113, R137, R160, R172, R180, R187, R196; disabled views
and groups and empty programs: R5, R103, R114). -/
def Obligations.ResetValues : Prop :=
  (State.reset.src.F = 0 ∧ State.reset.src.lag = 2 ∧ State.reset.src.clockLost = false ∧
  (∀ v, (State.reset.view v).record.enabled = false ∧ ∀ g, (State.reset.view v).slots.get none g = none) ∧
  (∀ i q, (State.reset.source i).record.enabled = false ∧ (State.reset.source i).tag q = none ∧
    (State.reset.source i).levelTag q = 0 ∧ (State.reset.source i).arrivals = {} ∧ (State.reset.source i).plays = {} ∧
    (State.reset.source i).det.smoothed = 0 ∧ (State.reset.source i).det.peak = 0 ∧ (State.reset.source i).det.flag = false ∧
    (State.reset.source i).det.guarded = false) ∧
  (∀ t, (State.reset.turret t).presence = .unknown ∧ (State.reset.turret t).run = 0) ∧
  State.reset.src.snapPending = [] ∧ State.reset.src.snapDeferred = [] ∧ State.reset.src.levelImage = none ∧
  (∀ u, (State.reset.slot u).enabled = false ∧ (State.reset.slot u).volume = 16384 ∧ (State.reset.slot u).terms = [] ∧
    (State.reset.slot u).adds = []) ∧
  (∀ b, (State.reset.bus b).inForce = [] ∧ (State.reset.bus b).adds = []) ∧
  (∀ g, State.reset.mix.cache.get none g = none) ∧ State.reset.mix.listens = [] ∧
  (∀ n, (State.reset.lineAt n).record.enabled = false ∧ (State.reset.lineAt n).status = .idle ∧
    (State.reset.lineAt n).inbound = .clear ∧ (State.reset.lineAt n).joined = [] ∧ (State.reset.lineAt n).appearances = [] ∧
    (State.reset.lineAt n).holdPlaced = false ∧ (State.reset.player n).phase = .stopped ∧
    (State.reset.player n).gate = false ∧ (State.reset.player n).terms = []) ∧
  (∀ c, (State.reset.program c).steps = []) ∧
  (∀ h, State.reset.occupancy h = .vacant) ∧
  (∀ g, (State.reset.groupAt g).record.enabled = false ∧ (State.reset.groupAt g).record.feeds = [] ∧
    (State.reset.groupAt g).members = [] ∧ (State.reset.groupAt g).latched = []) ∧
  (∀ c, (State.reset.channel c).bound = none ∧ (State.reset.channel c).dropped = 0) ∧
  State.reset.recorder.status = .healthy ∧ State.reset.recorder.cap = 4096 ∧ State.reset.recorder.producer = 0 ∧
  State.reset.recorder.consumer = 0 ∧ State.reset.recorder.seconds = 0 ∧ State.reset.recorder.frameInSecond = 0 ∧
  State.reset.recorder.fresh = false ∧ State.reset.recorder.staged = none ∧ State.reset.recorder.records = [] ∧
  (∀ k, (State.reset.noticeRing k).cap = 256 ∧ (State.reset.noticeRing k).producer = 0 ∧
    (State.reset.noticeRing k).consumer = 0 ∧ (State.reset.noticeRing k).published = 0 ∧
    (State.reset.noticeRing k).mark = false ∧ (State.reset.noticeRing k).discards = 0 ∧ State.reset.int k = false) ∧
  State.reset.notice.imagePending = [] ∧ State.reset.notice.imageDeferred = [] ∧ State.reset.notice.image = none ∧
  State.reset.plan.floor.lag = 2 ∧ State.reset.plan.floor.lossLimit = 50 ∧ State.reset.plan.floor.releaseLimit = 2000 ∧
  State.reset.plan.floor.timeMode = .strobe ∧ State.reset.plan.floor.margin = 1024 ∧ State.reset.plan.floor.recordCap = 4096 ∧
  (∀ k, State.reset.plan.floor.noticeCap k = 256) ∧ (∀ c, State.reset.plan.floor.route c = 0) ∧
  State.reset.plan.floor.enables = 0 ∧
  State.reset.plan.staging = [] ∧ State.reset.plan.clears = [] ∧ State.reset.plan.restart = none ∧
  (∀ m, State.reset.queue m = []) ∧ State.reset.path.unanswered = [] ∧ State.reset.path.partialWrites = 0 ∧
  State.reset.path.memoryFaults = 0 ∧ State.reset.path.faultMark = false) ∧
  MemoryCanonical State.reset.mem ∧ QueuesBounded State.reset ∧ StagingOk State.reset ∧ ChannelsExclusive State.reset ∧
  MembersOk State.reset ∧ MixOk State.reset ∧ HandsetsOk State.reset ∧ SignalsFollow State.reset ∧ RingsFollow State.reset ∧
  RecordingLaw State.reset ∧ ChannelsFollow State.reset ∧ TimeOk State.reset ∧ FloorOk State.reset ∧ RingsOk State.reset

/-- No command but FRAME_CLOSE and RESET_RELEASE changes F, the lag or the playout frame P (R1, R2, R3). -/
def Obligations.OnlyClosesMoveF : Prop :=
  ∀ (c : Instr) (s t : State), exec c s = .next t → (∀ o, c ≠ .frameClose o) → (∀ b d, c ≠ .resetRelease b d) →
    t.src.F = s.src.F ∧ t.src.lag = s.src.lag ∧ t.P = s.P

/-- The commands of the pins, the events of a close, talk writes, gather bursts, home and listen reads taken, bursts answered ERROR
and bursts presented leave every byte of memory: only an answer of memory changes one. That a write takes effect when memory answers
it, and not when it is presented, is read from the spec by inference (log entry 10). -/
def Obligations.OnlyAnswersChangeMemory : Prop :=
  ∀ (c : Instr) (s t : State), answerless c = true → exec c s = .next t → t.mem = s.mem

/-! ### The frame close and the clock -/

/-- A frame strobe while RESET is released is a close in full: F grows by one, L stays but at the close that carries out a floor
restart, where it becomes that of the floor record in force, P is F - L, CLOCK_LOST ends, the fault notice mark is cleared, no
restart and no CLEAR_COUNTS stays waiting, and the floor counts are cleared where either was (R1, R2, R3, R170, R171, R184, R186).
The pending edits of the mix take force: removals first, then additions in order; at a close that carries out a restart only those
that line and group records asked, and of what was in force only what such records placed stays. A recipe that no staged record
names keeps its volume, its planned terms and whether it is enabled, and where its occupancy was at most 12 has at most 12 terms
in force (R54, R57, R59, R71). Memory and the response queues are as they were. -/
def Obligations.FrameCloseAdvances : Prop :=
  ∀ (s : State) (o : CloseOrder), s.running = true →
    ∃ t, exec (.frameClose o) s = .next t ∧ t.src.F = s.src.F + 1 ∧
      t.src.lag = (if s.plan.restart.isSome then s.plan.floor.lag else s.src.lag) ∧
      t.P = s.src.F + 1 - BitVec.ofNat 32 t.src.lag ∧ t.src.clockLost = false ∧ t.path.faultMark = false ∧
      t.plan.restart = none ∧ t.plan.clears = [] ∧
      t.path.partialWrites = (if s.plan.restart.isSome ∨ s.plan.clears ≠ [] then 0 else s.path.partialWrites) ∧
      t.path.memoryFaults = (if s.plan.restart.isSome ∨ s.plan.clears ≠ [] then 0 else s.path.memoryFaults) ∧
      (∀ b, (t.bus b).inForce =
        if s.plan.restart.isSome then
          ((s.bus b).list.filter fun e => e.byRecord && e.mark == .keep).map (·.contrib) ++
            ((s.bus b).adds.filter (·.byRecord)).map (·.contrib)
        else ((s.bus b).list.filter fun e => e.mark == .keep).map (·.contrib) ++ (s.bus b).adds.map (·.contrib)) ∧
      (∀ u, (t.slot u).dynamic.map (fun d => (d.term, d.origin)) =
        if s.plan.restart.isSome then
          ((s.slot u).dynamic.filter fun d => d.byRecord && d.mark == .keep).map (fun d => (d.term, d.origin)) ++
            ((s.slot u).adds.filter (·.byRecord)).map (fun a => (a.term, a.origin))
        else
          ((s.slot u).dynamic.filter fun d => d.mark == .keep).map (fun d => (d.term, d.origin)) ++
            (s.slot u).adds.map (fun a => (a.term, a.origin))) ∧
      (∀ u, (∀ e ∈ s.plan.staging, recordId e.record ≠ some (.recipe u)) →
        (t.slot u).enabled = (s.slot u).enabled ∧ (t.slot u).volume = (s.slot u).volume ∧
          (t.slot u).planned = (s.slot u).planned ∧ ((s.slot u).occupancy ≤ 12 → (t.slot u).terms.length ≤ 12)) ∧
      t.mem = s.mem ∧ t.path.queues = s.path.queues

/-- At a close with no record staged and no restart pending, every source does its work for the new P on its own. An enabled talk
source is PRESENT where the tag of its position P mod 8 is P, else CONCEALED where it conceals and the tag before is P - 1, else
SILENT; the one play count of that status grows; its frame level is the level tag of that position, or 0; and detection steps on it:
the smoothed level by an eighth of the gap, rounded down, the peak, the history of loud outcomes, the talk flag by onset and hang,
the guard run, and GUARDED. A TONE source is PRESENT with its detection state cleared, a disabled one SILENT with its own kept, and
neither counts. A CLEAR_COUNTS clears the counts first, and a level snapshot that is served resets the peak last. A GUARD_ON or
GUARD_OFF that carries P is handed on for each source whose GUARDED changes, in ascending number, and no other notice of class SOURCE.
That the frame level of a TONE or disabled source is 0 (log entry 37), and the ascending number of the guard notices (log entry 12), are
the model's choice (R20 to R23, R31 to R41, R44, R184). -/
def Obligations.FrameCloseSources : Prop :=
  ∀ (s : State) (o : CloseOrder), s.running = true → s.plan.staging = [] → s.plan.restart = none →
    ∃ t, exec (.frameClose o) s = .next t ∧
      (∀ i, ∃ y, Closed t.P (if s.plan.clears = [] then s.source i else { s.source i with arrivals := {}, plays := {} }) y ∧
        t.source i =
          if s.src.snapPending ≠ [] ∧ s.src.levelImage = none then { y with det := { y.det with peak := 0 } } else y) ∧
      ∃ (w : State) (before after : List Notice),
        Handed { s with src.F := s.src.F + 1 } (before ++ guardNotices s t ++ after) w ∧ s.ResultsOnly w t ∧
          ∀ k ∈ before ++ after, k.cls ≠ .source

/-- A close with no record staged that carries out a floor restart: every line keeps its record and banks and is IDLE with nothing
joined, every handset vacant, no group member, every channel free, the recorder HEALTHY with its ring empty at the capacity in
force, every notice ring's consumer and published index 0 at its capacity in force and INTk low, players STOPPED, and the turrets
UNKNOWN. Every source keeps its record and takes its first P with its tags NONE and its level tags, counts and detection cleared;
every view keeps its record, its gather slots empty. Of the contributors and dynamic terms stay those that line and group records
placed, with the additions that such records asked, none marked and none pending; planned terms, volumes and enabled states stay, and
the selection cache is empty. Where the part issues bursts, CLEAR is written to the outbound cell of every enabled line, 0 to the progress cells, FLOOR_RESTARTED is the
first notice of the emptied ring of its class, and the request's DONE follows in its reply ring: next where no CLEAR_COUNTS is
answered before it and no GUARD_ON goes to that ring (R28, R71, R102, R113, R137, R138, R142, R160, R186, R187, R194, R196; that a
cell whose last burst the close issues is among the waiting bursts says nothing of their order, log entry 38). That the frame
level of a TONE or disabled source is 0 is the model's choice (log entry 37). -/
def Obligations.FrameCloseRestart : Prop :=
  ∀ (s : State) (o : CloseOrder), s.running = true → s.plan.staging = [] → s.plan.restart.isSome →
    ∃ t, exec (.frameClose o) s = .next t ∧
      (∀ n, t.lineAt n = { record := (s.lineAt n).record, bank0 := (s.lineAt n).bank0, bank1 := (s.lineAt n).bank1 }) ∧
      (∀ h, t.occupancy h = .vacant) ∧
      (∀ g, t.groupAt g = { record := (s.groupAt g).record }) ∧
      (∀ c, t.channel c = {}) ∧ t.recorder.status = .healthy ∧ t.recorder.cap = s.plan.floor.recordCap ∧
      t.recorder.producer = 0 ∧ t.recorder.consumer = 0 ∧ t.recorder.records = [] ∧ t.recorder.batches = [] ∧
      (∀ k < 4, (t.noticeRing k).cap = s.plan.floor.noticeCap k ∧ (t.noticeRing k).consumer = 0 ∧
        (t.noticeRing k).published = 0 ∧ t.int k = false) ∧
      (∀ n, (t.player n).phase = .stopped ∧ (t.player n).terms = []) ∧
      (∀ u, (t.turret u).record = (s.turret u).record ∧ (t.turret u).presence = .unknown) ∧
      (∀ b, t.bus b =
        { list :=
            ((s.bus b).list.filter fun e => e.byRecord && e.mark == .keep) ++
              ((s.bus b).adds.filter (·.byRecord)).map fun a => { contrib := a.contrib, byRecord := true }
          adds := [] }) ∧
      (∀ u, t.slot u = { s.slot u with
        dynamic :=
          ((s.slot u).dynamic.filter fun d => d.byRecord && d.mark == .keep) ++
            ((s.slot u).adds.filter (·.byRecord)).map fun a => { term := a.term, origin := a.origin, byRecord := true }
        adds := [] }) ∧
      t.mix.cache = {} ∧ t.mix.listens = s.mix.listens ∧ t.plan.floor = s.plan.floor ∧ t.plan.restart = none ∧ t.mem = s.mem ∧
      (∀ v, t.view v = { record := (s.view v).record }) ∧
      (∀ i, ∃ y, Closed t.P { record := (s.source i).record } y ∧
        t.source i =
          if s.src.snapPending ≠ [] ∧ s.src.levelImage = none then { y with det := { y.det with peak := 0 } } else y) ∧
      (s.path.active = true → ∀ written : Owner → Nat → Burst → Prop,
        written = (fun own offset d => ∃ f ∈ t.path.ownWait, f.owner = own ∧ f.addr = s.path.address offset ∧ f.op = fullWrite d) →
        (∀ n < 128, (s.lineAt n).record.enabled = true →
          written (.signal n) (outboundOffset n) (encodeOutbound .clear t.src.F)) ∧
        written .recordProgress recordProgressOffset (encodeRecordProgress 0 t.P .healthy) ∧
        (∀ k < 4, written (.noticeProgress k) (noticeProgressOffset k) (encodeNoticeProgress 0 t.src.F)) ∧
        (s.plan.floor.Ok → ∀ k, k = s.plan.floor.route .floor →
          written (.notice k 0) (noticeOffset k 0)
            (encodeNotice { cls := .floor, kind := .floorRestarted, frame := t.src.F }) ∧
          ∀ q i, s.plan.restart = some q → q.ring ≤ 3 → s.plan.clears = [] →
            (s.plan.floor.route .source ≠ q.ring ∨ ∀ j < 384, (t.source j).det.guarded = false) →
            i = (if q.ring = k then 1 else 0) →
            written (.notice q.ring i) (noticeOffset q.ring i)
              (encodeNotice { cls := .result, kind := .requestResult, code := .done, frame := t.src.F, object := some q.cell,
                              old := some RequestKind.floorRestart.code, tag := q.tag })))

/-- The capture of the images at a close. A pending LEVEL_SNAPSHOT is served where no level image is being written, and a pending
STATE_IMAGE where no state image is: the list served becomes empty, the image is being written with the P of the close, and every
peak is reset, after it is captured; else nothing of the image or its lists changes. What is captured of a source is what the close
made of it: of one that no staged record names, the work of the close on the state it had, its counts cleared where a CLEAR_COUNTS is
served, or on its cleared state at a restart; of any other, that work on the source as the records leave it, its peak kept or 0. Where the part issues bursts, they are 96
full bursts from 0x0B1000 on, which hold 8 bytes per source: smoothed level, peak, talk flag and GUARDED, and zeros for a disabled or
TONE source; and 609 from 0x0B2000 on, which hold the seven sections of the floor as it stands after the close (R43, R44, R195).
That all of them are issued at that close, in ascending address and after every other burst of it, the level image first, is the
model's choice (log entry 38), as is the frame level 0 of a TONE or disabled source (log entry 37). What the bytes hold that the spec
leaves open is the model's choice too: 0 in those that the layouts neither name nor mark reserved, among them bits 2 to 7 of byte 4 of a
level image entry (log entry 41), all ones in the number of a vacant occupancy entry and of a free channel entry (log entry 28), and the
counts it kept in a source disabled by a record of kind TONE (log entry 31). -/
def Obligations.ImagesCaptured : Prop :=
  ∀ (s : State) (o : CloseOrder), s.running = true →
    ∃ t y : State, exec (.frameClose o) s = .next t ∧ y = { t with src.sources := y.src.sources } ∧
      (∀ i, (∀ e ∈ s.plan.staging, recordId e.record ≠ some (.source i)) →
        (s.plan.restart = none →
          Closed t.P (if s.plan.clears = [] then s.source i else { s.source i with arrivals := {}, plays := {} }) (y.source i)) ∧
        (s.plan.restart.isSome = true → Closed t.P { record := (s.source i).record } (y.source i))) ∧
      (∀ i, ∃ x, Closed t.P x (y.source i) ∧ (x.det.peak = (s.source i).det.peak ∨ x.det.peak = 0)) ∧
      (∀ levels : Bool, levels = decide (s.src.snapPending ≠ [] ∧ s.src.levelImage = none) →
        (t.src.levelImage = if levels then some { frame := t.P, served := s.src.snapPending } else s.src.levelImage) ∧
        (t.src.snapPending = if levels then [] else s.src.snapPending) ∧ t.src.snapDeferred = s.src.snapDeferred ∧
        (∀ i, t.source i =
          if levels then { y.source i with det := { (y.source i).det with peak := 0 } } else y.source i) ∧
        ∀ image : Bool, image = decide (s.notice.imagePending ≠ [] ∧ s.notice.image = none) →
          (t.notice.image = if image then some { frame := t.P, served := s.notice.imagePending } else s.notice.image) ∧
          (t.notice.imagePending = if image then [] else s.notice.imagePending) ∧
          t.notice.imageDeferred = s.notice.imageDeferred ∧
          (s.path.active = true → ∃ before,
            t.path.ownWait.map (fun f => (f.addr, f.op, f.owner)) = before ++
              (if levels then
                (List.range 96).map fun j => (s.path.address (0x0B1000 + j * 32),
                  fullWrite (packBytes (((levelImageBytes y).drop (j * 32)).take 32)), Owner.levelImage)
               else []) ++
              if image then
                (List.range 609).map fun j => (s.path.address (0x0B2000 + j * 32),
                  fullWrite (packBytes (((stateImageBytes t).drop (j * 32)).take 32)), Owner.stateImage)
              else [])) ∧
      (levelImageBytes y).length = 96 * 32 ∧ (stateImageBytes t).length = 609 * 32 ∧
      (∀ i < 384, ((levelImageBytes y).drop (i * 8)).take 8 =
        if (t.source i).intake then
          le 2 (y.source i).det.smoothed ++ le 2 (y.source i).det.peak ++
            le 1 (flagBit (y.source i).det.flag + 2 * flagBit (y.source i).det.guarded) ++ [0, 0, 0]
        else [0, 0, 0, 0, 0, 0, 0, 0]) ∧
      (stateImageBytes t).take 32 = floorEntry t ∧
      (∀ n < 128, ((stateImageBytes t).drop (0x20 + n * 16)).take 16 = lineEntry t n) ∧
      (∀ u < 64, ((stateImageBytes t).drop (0x820 + u * 4)).take 4 = turretEntry t u) ∧
      (∀ h < 128, ((stateImageBytes t).drop (0x920 + h * 2)).take 2 = occupancyEntry t h) ∧
      (∀ g < 32, ((stateImageBytes t).drop (0xA20 + g * 32)).take 32 = groupEntry t g) ∧
      (∀ i < 384, ((stateImageBytes t).drop (0xE20 + i * 40)).take 40 = sourceEntry t i) ∧
      ∀ c < 64, ((stateImageBytes t).drop (0x4A20 + c * 8)).take 8 = channelEntry t c

/-- At a close with no record staged, the floor time moves by the mode in force: in STROBE mode the fresh mark is used up, else the
frame-in-second grows to at most 999; in FRAMES mode 999 is followed by 0 and a new second, which is the staged one if any (R155,
R156). -/
def Obligations.FrameCloseFloorTime : Prop :=
  ∀ (s : State) (o : CloseOrder), s.running = true → s.plan.staging = [] →
    ∃ t, exec (.frameClose o) s = .next t ∧
      (s.plan.floor.timeMode = .strobe → s.recorder.fresh = true →
        t.recorder.fresh = false ∧ t.recorder.frameInSecond = s.recorder.frameInSecond ∧
          t.recorder.seconds = s.recorder.seconds ∧ t.recorder.staged = s.recorder.staged) ∧
      (s.plan.floor.timeMode = .strobe → s.recorder.fresh = false →
        t.recorder.fresh = false ∧ t.recorder.frameInSecond = min 999 (s.recorder.frameInSecond + 1) ∧
          t.recorder.seconds = s.recorder.seconds ∧ t.recorder.staged = s.recorder.staged) ∧
      (s.plan.floor.timeMode = .frames → s.recorder.frameInSecond < 999 →
        t.recorder.frameInSecond = s.recorder.frameInSecond + 1 ∧ t.recorder.seconds = s.recorder.seconds ∧
          t.recorder.staged = s.recorder.staged) ∧
      (s.plan.floor.timeMode = .frames → 999 ≤ s.recorder.frameInSecond →
        t.recorder.frameInSecond = 0 ∧ t.recorder.seconds = s.recorder.staged.getD (s.recorder.seconds + 1) ∧
          t.recorder.staged = none)

/-- What a close with nothing staged and no restart counts, and what the losses of turrets at it do. Every enabled turret's silence
run grows, and a PRESENT one at the loss limit is LOST. The ring run of a ringing line grows and at its limit makes it UNANSWERED, the
release timer of a RELEASING line grows and at its limit makes it ring, and no line changes else, unless a LOST turret's handset leaves
it: a line so left with none goes to HELD, with its hold term or with code TERMS_FULL, or to IDLE, CLEAR written where SEIZE stood. A
LOST turret's handsets are vacant, it is on no player's list and a member of no group. A player steps by its phase, and stops or starts
where its line's ring does; a KEYED box member's run grows, or at the key limit it is UNKEYED; the key latches are those of the members
then KEYED, a LOST turret's among them where the order of the close puts the losses at or after the listing. The notices handed on are
those of clock, guards, key limits, line limits, OUTAGE_END and losses, each loss where the order puts it, then the results (R3, R27,
R41, R80, R85, R93, R96, R97, R106, R107, R110, R124, R128 to R131, R143). What follows is the model's choice: losses, guards and
limits in ascending number, and the order of the notices of different blocks (log entry 12); the order of the notices of one loss (log
entry 36), and of losses and limits on one side of the listing (log entry 11); and that counts stay as they were in a state or phase that
does not use them (log entry 29). -/
def Obligations.FrameCloseCounts : Prop :=
  ∀ (s : State) (o : CloseOrder), s.running = true → s.plan.staging = [] → s.plan.restart = none →
    ∃ t, exec (.frameClose o) s = .next t ∧
      (∀ u < 64, ∀ r, r = min 65535 ((s.turret u).run + 1) →
        ((s.turret u).record.enabled = false → t.turret u = s.turret u) ∧
        ((s.turret u).record.enabled = true → (s.turret u).presence = .present → s.plan.floor.lossLimit ≤ r →
          t.turret u = { s.turret u with run := r, presence := .lost }) ∧
        ((s.turret u).record.enabled = true → ((s.turret u).presence ≠ .present ∨ r < s.plan.floor.lossLimit) →
          t.turret u = { s.turret u with run := r })) ∧
      ((∀ u < 64, ¬ s.Losing s.plan.floor.lossLimit u) →
        (∀ n < 128, ∀ l, l = s.lineAt n → s.Counted l (t.lineAt n) ∧
          ((t.lineAt n).status = l.status → Played (s.program l.record.program) (s.player n) (t.player n)) ∧
          (l.status = .inboundRing → (t.lineAt n).status = .unanswered →
            (t.player n).phase = .stopped ∧ (t.player n).terms = []) ∧
          (l.status = .releasing → (t.lineAt n).status = .inboundRing →
            (t.player n).phase = .starting ∧ (t.player n).index = 0 ∧ (t.player n).entry = some .releaseTimeout)) ∧
        ∀ g < 32, ∀ x, x = s.groupAt g → (x.members.map (·.turret)).Nodup →
          (t.groupAt g).record = x.record ∧
          (t.groupAt g).members =
            (if x.record.enabled = true ∧ x.record.kind = .box then x.members.map (Member.afterClose x.record.keyLimit)
             else x.members) ∧
          (t.groupAt g).latched =
            if x.record.kind = .box then
              (t.groupAt g).members.filterMap fun m => if m.talker = true ∧ m.keyed = true then m.mic else none
            else []) ∧
      ∀ lost, s.Loses s.plan.floor.lossLimit lost → HandsetsOk s → MembersOk s →
        ∃ (code : Nat → Code) (silent : Nat → List Notice) (w : State),
          (∀ h, (lost.contains (h / 2) = false → t.occupancy h = s.occupancy h) ∧
            (lost.contains (h / 2) = true → (∀ g, s.occupancy h = .group g → g < 32) → t.occupancy h = .vacant)) ∧
          (∀ n l, l = s.lineAt n →
            (l.staying lost = l.joined → (n < 128 → s.Counted l (t.lineAt n)) ∧ (128 ≤ n → t.lineAt n = l)) ∧
            (l.staying lost ≠ l.joined →
              t.lineAt n = { l with
                joined := l.staying lost, status := if l.staying lost = [] then l.status.left .turretLost else l.status
                holdPlaced := (t.lineAt n).holdPlaced } ∧
              (∀ parked, parked = (l.staying lost = [] ∧ l.status = .connected ∧ l.record.hold.isSome = true) →
                (¬ parked → (t.lineAt n).holdPlaced = l.holdPlaced) ∧
                (parked → (t.lineAt n).holdPlaced = true ∨
                  ((t.lineAt n).holdPlaced = l.holdPlaced ∧ ∃ h ∈ l.joined, code h = .termsFull))) ∧
              (l.staying lost = [] → l.status = .outboundWait → s.path.active = true →
                ∃ f ∈ t.path.ownWait, f.owner = .signal n ∧ f.addr = s.path.address (outboundOffset n) ∧
                  f.op = fullWrite (encodeOutbound .clear t.src.F)))) ∧
          (∀ n < 128, ∀ l p q, l = s.lineAt n → p = s.player n → q = t.player n →
            (¬ (l.status = .inboundRing ∧ (t.lineAt n).status = .unanswered) →
              ¬ (l.status = .releasing ∧ (t.lineAt n).status = .inboundRing) →
              Played (s.program l.record.program) p { q with terms := p.terms } ∧
                q.terms = p.terms.filter fun e => !lost.contains e.1) ∧
            (l.status = .inboundRing → (t.lineAt n).status = .unanswered → q.phase = .stopped ∧ q.terms = []) ∧
            (l.status = .releasing → (t.lineAt n).status = .inboundRing →
              q.phase = .starting ∧ q.index = 0 ∧ q.entry = some .releaseTimeout ∧ ∀ e ∈ q.terms, lost.contains e.1 = false)) ∧
          (∀ g < 32, ∀ x counted, x = s.groupAt g →
            counted = (if x.record.enabled = true ∧ x.record.kind = .box then x.members.map (Member.afterClose x.record.keyLimit)
              else x.members) →
            (t.groupAt g).record = x.record ∧ (t.groupAt g).members = (counted.filter fun m => !lost.contains m.turret) ∧
            (t.groupAt g).latched =
              if x.record.kind = .box then
                (if o.loss = .beforeListing ∨ o.loss = .afterListing then counted else (t.groupAt g).members).filterMap fun m =>
                  if m.talker = true ∧ m.keyed = true then m.mic else none
              else []) ∧
          (∀ h, code h = .done ∨ (code h = .termsFull ∧ ∃ n, s.occupancy h = .line n ∧ (s.lineAt n).status = .connected ∧
            (s.lineAt n).record.hold.isSome = true ∧ (t.lineAt n).status = .held ∧
            (t.lineAt n).holdPlaced = (s.lineAt n).holdPlaced)) ∧
          (∀ n, ∀ k ∈ silent n, ∃ a ∈ (s.lineAt n).appearances, a.rings = true ∧ k = silentNotice t n a.turret (some .releaseTimeout)) ∧
          Handed { s with src.F := s.src.F + 1 } (closeNotices s t o lost code silent) w ∧ s.ResultsOnly w t

/-- The record unit at a close with nothing staged and no restart: an OUTAGE recorder with the margin free,
or R - 1 where the margin exceeds it, becomes HEALTHY with an OUTAGE_END carrying P; then every channel bound at that moment has
its record for P listed, in ascending order after those still to be placed, with the floor time in force. A line's record has the
status of its far source, the line state at the listing, no talkers, the far source's frame as A part and the mix of its outbound
slot as B part; a group's has its selection as talkers, its kind, its bus value as A part and zeros as B part; the home positions
they need are being read. A channel of a line whose RELEASING ends at that close, of a line in OUTBOUND_WAIT or FAR_CLEARED that its
last handset leaves with a LOST turret, or of a group whose last member so leaves, is free after it, which marks the records listed for
it, and is listed where the order of the close takes the limits, or the losses, after the listing (R85, R93, R97, R98, R131, R140, R142
to R147, R150). -/
def Obligations.FrameCloseListing : Prop :=
  (∀ (s : State) (o : CloseOrder), s.running = true → s.plan.staging = [] → s.plan.restart = none → ChannelsExclusive s →
    ∀ lost, s.Loses s.plan.floor.lossLimit lost → (lost ≠ [] → HandsetsOk s ∧ MembersOk s) →
    ∃ t batch, exec (.frameClose o) s = .next t ∧
      t.recorder.status =
        (if s.recorder.status = .outage ∧ min s.plan.floor.margin (s.recorder.cap - 1) ≤ s.recorder.free then .healthy
         else s.recorder.status) ∧
      t.recorder.producer = s.recorder.producer ∧ t.recorder.consumer = s.recorder.consumer ∧ t.recorder.cap = s.recorder.cap ∧
      (∀ c < 64, (∃ k, (s.channel c).bound = some k ∧ (s.LossFrees lost k ∨ s.LimitFrees k)) → t.channel c = {}) ∧
      (∀ c < 64, (∀ k, (s.channel c).bound = some k → ¬ s.LossFrees lost k ∧ ¬ s.LimitFrees k) → t.channel c = s.channel c) ∧
      ∃ (listed : List Nat) (new : List PendingRecord), listed.Pairwise (· < ·) ∧
        (∀ c, c ∈ listed ↔ c < 64 ∧ (s.channel c).bound.isSome = true ∧
          ∀ k, (s.channel c).bound = some k →
            (s.LossFrees lost k → o.loss = .afterListing) ∧ (s.LimitFrees k → o.timeoutsAfterListing = true)) ∧
        (∃ old, t.recorder.records = old ++ new ∧
          List.Forall₂ (PendingRecord.Unbound fun c =>
              c < 64 ∧ ∃ k, (s.channel c).bound = some k ∧ (s.LossFrees lost k ∨ s.LimitFrees k))
            s.recorder.records old) ∧
        (∀ r ∈ new, r.freed = true ↔ s.LossFrees lost r.object ∨ s.LimitFrees r.object) ∧
        new.map (fun r => (r.batch, r.channel, some r.object, r.frame)) =
          listed.map (fun c => (batch, c, (s.channel c).bound, t.P)) ∧
        ∀ r ∈ new, r.seconds = t.recorder.seconds ∧ r.frameInSecond = t.recorder.frameInSecond ∧
          r.aPart.got = [] ∧ r.aPart.faulted = false ∧ r.bPart.got = [] ∧ r.bPart.faulted = false ∧
          (∀ n l, r.object = .line n → l = (s.lineAt n).record →
            r.aStatus = farStatus t l.far ∧
            r.stateByte =
              ((if (s.lineAt n).staying lost = (s.lineAt n).joined then (if o.timeoutsAfterListing then s else t)
                else if o.loss = .afterListing then s else t).lineAt n).status.code ∧ r.talkers = [] ∧
            r.aPart.work = .frame l.far ∧ r.bPart.work = slotWork t l.out) ∧
          (∀ g, r.object = .group g →
            r.aStatus = (if selection t g = [] then .silent else .present) ∧
            r.stateByte = codeIn GroupKind.list (s.groupAt g).record.kind ∧
            r.talkers = (selection t g).map (·.source) ∧
            r.aPart.work = .busValue (countedPairs t (128 + g)) ∧ r.bPart.work = .zeros) ∧
          (s.path.active = true → ∀ part, (part = r.aPart ∨ part = r.bPart) → ∀ i q, (i, q) ∈ readsOf t part.work →
            ∃ f ∈ t.path.ownWait, f.owner = .jobRead i part.id ∧ f.addr = s.path.address (homeOffset i q) ∧ f.op = .read)) ∧
  ∀ s : State,
    (s.recorder.status = .outage → min s.plan.floor.margin (s.recorder.cap - 1) ≤ s.recorder.free →
      s.recover = ({ s with recorder.status := .healthy } : State).handOn
        { cls := .record, kind := .outageEnd, cause := some .ringFree, frame := s.P, old := some RecorderState.outage.code,
          new := some RecorderState.healthy.code }) ∧
    (s.recorder.status = .healthy ∨ s.recorder.free < min s.plan.floor.margin (s.recorder.cap - 1) → s.recover = s)

/-- One staged record, as a close takes it (R176, R177, R178). Out of range it is refused RANGE. In range, it is held while its
object is busy: a line record or bank while the enabled line is neither IDLE nor OUT_OF_SERVICE, a turret record while a handset
is on a line or the turret a member, a group record while the group has members, no other; HELD is handed on once, while the mark
is clear. Else its owner applies it, with the edits of the mix that a line or group record asks (the batch of the new contributors
and terms, and of the removals where it changes; the removals where it disables), or refuses it leaving everything as it was, with
TERMS_FULL or RANGE where the batch is refused, and the PLAN_RESULT of its code follows. What an application hands on before it is a
GUARD_OFF with P where the record disables a GUARDED source or changes its kind, the LINE_STATE of a line that it takes to INBOUND_RING
(then with the RING_SILENTs of the ring's start), to OUT_OF_SERVICE or from there to IDLE, and nothing else (R11,
R24, R41, R42, R54, R74, R75, R80, R108, R110, R111, R115, R179, R180, R181). That a changed group record keeps a feed only where source, gain and slot all
agree is an inference (log entry 22). That a player which a program record restarts is STARTING with its frames-left count as it was,
until its step at the same close takes step 0, where R111 has it STEPPING at step 0 at once, is the model's choice, as is the frames
left that a player keeps which starts (log entry 29). -/
def Obligations.StagingTaken : Prop :=
  ∀ (s : State) (e : Staged) (id : RecordId), recordId e.record = some id →
    (id.inRange s e.data = false → s.takeEntry e = (s.handOn (planNotice s e.record (planTag e.data) .range), none)) ∧
    (id.inRange s e.data = true → busy s id = true →
      s.takeEntry e =
        (if e.held = true then s else s.handOn (planNotice s e.record (planTag e.data) .held), some { e with held := true })) ∧
    (id.inRange s e.data = true → busy s id = false →
      ∃ x c, s.takeEntry e = (x.handOn (planNotice x e.record (planTag e.data) c), none) ∧ Applies s x e.data c id) ∧
    (busy s id = true ↔ match id with
      | .line n | .bank0 n | .bank1 n =>
        (s.lineAt n).record.enabled = true ∧ (s.lineAt n).status ≠ .idle ∧ (s.lineAt n).status ≠ .outOfService
      | .turret t => (∃ n, s.occupancy (t * 2) = .line n ∨ s.occupancy (t * 2 + 1) = .line n) ∨
          ∃ g < 32, ∃ m ∈ (s.groupAt g).members, m.turret = t
      | .group g => (s.groupAt g).members ≠ []
      | _ => False)

/-- A close that carries out no restart, where no turret is lost before the staging list, takes the entries of the list in order,
each once, on the state that its earlier work leaves: what stays of the list is what is held, and the records in force after the
close are those that the taking leaves. A close that carries out a restart takes them on the cleared state, FLOOR_RESTARTED handed on
before the first of their PLAN_RESULTs and the part working with the lag and capacities of the floor record in force before them; none
is held, so that the list is empty after it. That the line limits and key timeouts come after the list is the model's choice (R57,
R176, R186, log entries 11 and 25). -/
def Obligations.StagingAtClose : Prop :=
  (∀ (s : State) (o : CloseOrder), s.running = true → s.plan.restart = none →
    (o.loss ≠ .beforeStaging ∨ ∀ u < 64, ¬ s.Losing s.closingFloor.lossLimit u) →
    ∃ t y z : State, exec (.frameClose o) s = .next t ∧
      y.src.F = s.src.F + 1 ∧ y.src.views = s.src.views ∧ y.src.turrets = s.src.turrets ∧
      (∀ i, (y.source i).record = (s.source i).record ∧ (y.source i).det = (s.source i).det) ∧
      y.mix = s.mix.applyEdits ∧ y.line = s.line ∧ y.ring = s.ring ∧ y.group = s.group ∧ y.recorder = s.recorder ∧
      y.plan = s.plan ∧ y.takeEntries s.plan.staging = (z, t.plan.staging) ∧
      t.plan.floor = z.plan.floor ∧ (∀ v, t.view v = z.view v) ∧ (∀ i, (t.source i).record = (z.source i).record) ∧
      (∀ u, (t.turret u).record = (z.turret u).record) ∧
      (∀ n, (t.lineAt n).record = (z.lineAt n).record ∧ (t.lineAt n).bank0 = (z.lineAt n).bank0 ∧
        (t.lineAt n).bank1 = (z.lineAt n).bank1) ∧
      (∀ c, t.program c = z.program c) ∧ (∀ g, (t.groupAt g).record = (z.groupAt g).record) ∧
      ∀ u, (t.slot u).enabled = (z.slot u).enabled ∧ (t.slot u).volume = (z.slot u).volume ∧
        (t.slot u).planned = (z.slot u).planned) ∧
  (∀ (s : State) (o : CloseOrder), s.running = true → s.plan.restart.isSome = true →
    ∃ t e y z : State, exec (.frameClose o) s = .next t ∧
      e.plan = s.plan ∧ e.src.F = s.src.F + 1 ∧ (∀ k < 4, e.noticeRing k = { cap := s.plan.floor.noticeCap k }) ∧
      Handed e [{ cls := .floor, kind := .floorRestarted, frame := s.src.F + 1 }] y ∧
      y.src.F = s.src.F + 1 ∧ y.src.lag = s.plan.floor.lag ∧ (∀ v, y.view v = { record := (s.view v).record }) ∧
      (∀ i, y.source i = { record := (s.source i).record }) ∧ (∀ u, y.turret u = { record := (s.turret u).record }) ∧
      y.mix = s.mix.restart ∧ (∀ h, y.occupancy h = .vacant) ∧
      (∀ n, y.lineAt n = { record := (s.lineAt n).record, bank0 := (s.lineAt n).bank0, bank1 := (s.lineAt n).bank1 }) ∧
      (∀ n, y.player n = {}) ∧ y.ring.programs = s.ring.programs ∧ (∀ g, y.groupAt g = { record := (s.groupAt g).record }) ∧
      (∀ c, y.channel c = {}) ∧ y.recorder.status = .healthy ∧ y.recorder.cap = s.plan.floor.recordCap ∧
      y.recorder.producer = 0 ∧ y.recorder.consumer = 0 ∧ y.recorder.records = [] ∧ y.plan = s.plan ∧
      y.takeEntries s.plan.staging = (z, []) ∧ t.plan.staging = [] ∧ t.src.lag = s.plan.floor.lag ∧
      t.recorder.cap = s.plan.floor.recordCap ∧ (∀ k < 4, (t.noticeRing k).cap = s.plan.floor.noticeCap k) ∧
      t.plan.floor = z.plan.floor ∧ (∀ v, t.view v = z.view v) ∧ (∀ i, (t.source i).record = (z.source i).record) ∧
      (∀ u, (t.turret u).record = (z.turret u).record) ∧
      (∀ n, (t.lineAt n).record = (z.lineAt n).record ∧ (t.lineAt n).bank0 = (z.lineAt n).bank0 ∧
        (t.lineAt n).bank1 = (z.lineAt n).bank1) ∧
      (∀ c, t.program c = z.program c) ∧ (∀ g, (t.groupAt g).record = (z.groupAt g).record) ∧
      ∀ u, (t.slot u).enabled = (z.slot u).enabled ∧ (t.slot u).volume = (z.slot u).volume ∧
        (t.slot u).planned = (z.slot u).planned) ∧
  ∀ (y : State) (e : Staged) (l : List Staged),
    y.takeEntries [] = (y, []) ∧
    y.takeEntries (e :: l) =
      (((y.takeEntry e).1.takeEntries l).1, (y.takeEntry e).2.toList ++ ((y.takeEntry e).1.takeEntries l).2)

/-- 3 ms without a strobe: where CLOCK_LOST does not hold, it is entered, with a CLOCK_LOST notice carrying the frozen F, and
nothing else changes; where it holds, or RESET is asserted, nothing changes (R3, R196, log entries 15 and 16). A strobe on SS in
STROBE mode starts a second: the seconds take the staged value or grow by one, nothing stays staged, frame-in-second is 0 and the
fresh mark set, during CLOCK_LOST too. In FRAMES mode, or while RESET is asserted, it changes nothing (R155, R156, R159, log entry
15). -/
def Obligations.ClockPins : Prop :=
  ∀ s : State,
    (s.clockRuns = true →
      exec .clockLost s = .next (({ s.ready with src.clockLost := true } : State).handOn
        { cls := .floor, kind := .clockLost, frame := s.src.F })) ∧
    (s.clockRuns = false → exec .clockLost s = .next s.ready) ∧
    (s.running = true →
      ∃ t, exec .secondStrobe s = .next t ∧ t = { s.ready with recorder := t.recorder } ∧
        (s.plan.floor.timeMode = .strobe →
          t.recorder = { s.recorder with
            seconds := s.recorder.staged.getD (s.recorder.seconds + 1), staged := none, frameInSecond := 0, fresh := true }) ∧
        (s.plan.floor.timeMode = .frames → t.recorder = s.recorder)) ∧
    (s.running = false → exec .secondStrobe s = .next s.ready)

/-- A notice handed on for a ring (R190, R191): with the mark clear and a free space of at least 1 it is written to the entry at the
producer index as one full burst, and the index moves on; with none it is discarded, the mark set and the discard count one higher,
saturating. With the mark set and a free space of at least 2, a RESYNC carrying the ring, F and the discard count is written before
it, the mark is clear and the count 0; with 1 or 0 it is discarded, counted, and the mark stays. The free space is c - p - 1 modulo
the capacity. No other ring and no block changes. A notice goes to the ring that the routing in force gives its class (R189). -/
def Obligations.NoticeRings : Prop :=
  ∀ (s : State) (k : Nat) (n : Notice) (r : Ring) (t : State), r = s.noticeRing k → t = s.handOnTo k n →
    (r.Ok → r.free = (r.consumer + r.cap - r.producer - 1) % r.cap) ∧
    (r.mark = false → 1 ≤ r.free →
      t.noticeRing k = { r with producer := (r.producer + 1) % r.cap, unpublished := (t.noticeRing k).unpublished } ∧
      (t.noticeRing k).unpublished = r.unpublished ++ [if s.path.active then some s.path.nextId else none] ∧
      (s.path.active = true →
        t.path.ownWait.map (fun f => (f.addr, f.op, f.owner)) = s.path.ownWait.map (fun f => (f.addr, f.op, f.owner)) ++
          [(s.path.address (noticeOffset k r.producer), fullWrite (encodeNotice n), .notice k r.producer)])) ∧
    (r.mark = false → r.free = 0 → t = s.setRing k { r with mark := true, discards := min 65535 (r.discards + 1) }) ∧
    (r.mark = true → 2 ≤ r.free →
      t.noticeRing k = { r with
        producer := ((r.producer + 1) % r.cap + 1) % r.cap, mark := false, discards := 0
        unpublished := (t.noticeRing k).unpublished } ∧
      (t.noticeRing k).unpublished = r.unpublished ++
        (if s.path.active then [some s.path.nextId, some (s.path.nextId + 1)] else [none, none]) ∧
      (s.path.active = true →
        t.path.ownWait.map (fun f => (f.addr, f.op, f.owner)) = s.path.ownWait.map (fun f => (f.addr, f.op, f.owner)) ++
          [(s.path.address (noticeOffset k r.producer),
             fullWrite (encodeNotice { cls := .floor, kind := .resync, frame := s.src.F, object := some k, tag := r.discards }),
             .notice k r.producer),
           (s.path.address (noticeOffset k ((r.producer + 1) % r.cap)), fullWrite (encodeNotice n),
             .notice k ((r.producer + 1) % r.cap))])) ∧
    (r.mark = true → r.free ≤ 1 → t = s.setRing k { r with discards := min 65535 (r.discards + 1) }) ∧
    (∀ j, j ≠ k → t.noticeRing j = s.noticeRing j) ∧ t.src = s.src ∧ t.mix = s.mix ∧ t.line = s.line ∧ t.ring = s.ring ∧
    t.group = s.group ∧ t.recorder = s.recorder ∧ t.plan = s.plan ∧ t.mem = s.mem ∧ t.path.queues = s.path.queues ∧
    s.handOn n = s.handOnTo (s.plan.floor.route n.cls) n

/-! ### Bursts of the masters -/

/-- A burst outside the floor region, or to an area that is forwarded, is taken: it goes to memory unchanged, its entry awaits
memory's answer, and no block sees it. So is a full write of a taken cell or of the plan area, which waits in flight for memory's answer
as the one that its block is handed when that is OK, the block not seeing it before. A queue holding 16 entries takes no burst (R161, R163, R166, log entry 18). The memory side
carries one waiting burst: the next of the only class that waits, and own and forwarded alternately when both wait; nothing else
changes (R168). That a burst carried alone counts in the alternation (log entry 4), and that memory changes when it answers, not when
a burst is presented (log entry 10), is the model's reading. -/
def Obligations.ForwardedTaken : Prop :=
  (∀ (s : State) (m : Master) (addr : BitVec 32) (op : BurstOp),
    (s.queueFull m = false → (s.path.decodes addr.toNat = false ∨ forwardedArea (addr.toNat % 2 ^ 24) op = true) →
      ∃ t, exec (.forwardedBurst (.taken m addr op .later)) s = .next t ∧
        t.path.fwdWait = s.path.fwdWait ++
          [{ id := s.path.nextId, addr := addr.toNat, op := op, owner := .master m s.path.nextId .nobody }] ∧
        t.path.ownWait = s.path.ownWait ∧ t.path.presented = s.path.presented ∧ Waits s t m s.path.nextId 1 ∧
        BlocksKept s t ∧ t.mem = s.mem ∧ t.path.partialWrites = s.path.partialWrites ∧
        ∀ k, k ≠ m.val → t.queue k = s.queue k) ∧
    (∀ h d, s.queueFull m = false → s.path.decodes addr.toNat = true → handedTo (addr.toNat % 2 ^ 24) = some h → op = fullWrite d →
      ∃ t, exec (.forwardedBurst (.taken m addr op .later)) s = .next t ∧
        t.path.fwdWait = s.path.fwdWait ++
          [{ id := s.path.nextId, addr := addr.toNat, op := op, owner := .master m s.path.nextId h }] ∧
        t.path.ownWait = s.path.ownWait ∧ t.path.presented = s.path.presented ∧ Waits s t m s.path.nextId 1 ∧
        BlocksKept s t ∧ t.mem = s.mem ∧ t.path.partialWrites = s.path.partialWrites ∧
        ∀ k, k ≠ m.val → t.queue k = s.queue k) ∧
    (s.queueFull m = true → exec (.forwardedBurst (.taken m addr op .later)) s = .next s.ready)) ∧
  ∀ s : State, ∃ t, exec (.forwardedBurst .presented) s = .next t ∧ BlocksKept s t ∧ t.mem = s.mem ∧
    t.path.queues = s.path.queues ∧
    (s.path.ownWait = [] → s.path.fwdWait = [] → t = s.ready) ∧
    (∀ f fs, s.path.fwdWait = f :: fs → (s.path.ownWait = [] ∨ s.path.lastOwn = true) →
      t.path.fwdWait = fs ∧ t.path.ownWait = s.path.ownWait ∧ t.path.presented = s.path.presented ++ [f] ∧
        t.path.lastOwn = false) ∧
    (∀ o os, s.path.ownWait = o :: os → (s.path.fwdWait = [] ∨ s.path.lastOwn = false) →
      t.path.ownWait = os ∧ t.path.fwdWait = s.path.fwdWait ∧ t.path.presented = s.path.presented ++ [o] ∧
        t.path.lastOwn = true)

/-- Memory answers a forwarded burst that nothing else in flight shares the address of: a read gets what memory holds, a write
leaves its enabled bytes there, ERROR is returned unchanged and counts as no fault, and a taken write answered OK is handed to its
block, to none while RESET is asserted or decoding is off. What memory keeps of a write answered ERROR is open (R162, R163, R165,
R167, R168, log entry 6). Memory answers OK one of the part's own bursts, also one whose block a RESET_RELEASE has reset: it is in
flight no longer, memory holds what it wrote, and what waits for it goes on; for a signal cell, a notice, a progress cell, a record
or an image nothing waits on the single burst, but the last burst of an image being written completes it: IMAGE_DONE, the results, and
the deferred requests become pending (R44, R162, R168, R172, R195; that FORWARDED_BURST has this form is the model's choice, log entry
39). Read from the spec by inference: that a taken write goes to no block where its OK comes while RESET is asserted, one taken before
the assertion included, of which R162 says also that it completes as it was begun (log entry 15); that it is handed on where its OK
comes after a release that decodes, and that an own burst of before is answered then and belongs to no image (log entry 20); that no
image completes while RESET is asserted (log entry 15); that the last answer completes an image, whichever command gives it (log entry
33); and that memory takes a write and gives a read's data when it answers (log entry 10). -/
def Obligations.MemoryAnswers : Prop :=
  (∀ (s : State) (n : Nat) (ok : Bool) (f : Flight) (m e : Nat) (h : Hand),
    (s.path.unanswered.filter fun g => !g.owner.isOwn)[n]? = some f → s.path.Alone f → f.owner = .master m e h →
    ∃ x, Answered s.ready f ok x ∧
      exec (.forwardedBurst (.answered n ok)) s = .next
        (match ok, f.op with
         | true, .read => x.answerEntry m e (some (.okData (readBurst s.mem f.addr)))
         | true, .write d _ =>
           if s.path.active then (x.answerEntry m e (some .ok)).hand h d else x.answerEntry m e (some .ok)
         | false, _ => x.answerEntry m e (some .error))) ∧
  ∀ (s : State) (n : Nat) (f : Flight),
    (s.path.unanswered.filter fun g => g.owner.isOwn)[n]? = some f → s.path.Alone f →
    ∃ x, Answered s.ready f true x ∧
      (f.owner.awaited = true →
        exec (.forwardedBurst (.ownAnswered n)) s = .next (x.answerOwner f true (readBurst s.mem f.addr))) ∧
      (f.owner.awaited = false →
        (∃ t, exec (.forwardedBurst (.ownAnswered n)) s = .next t ∧ Completes s f s.src.levelImage s.notice.image x t) ∧
        (∀ d, f.op = fullWrite d → x.mem = writeBurst s.mem f.addr d Enables.full))

/-- A master's write to an area that the part writes, and a burst to a view that the table of R6 refuses, is answered ERROR when it
is taken: no block, no memory and no burst in flight changes (R6, R163, R167). -/
def Obligations.BurstAnsweredError : Prop :=
  ∀ (s : State) (m : Master) (addr : BitVec 32) (op : BurstOp), s.Room m → s.path.decodes addr.toNat = true →
    ((areaOf (addr.toNat % 2 ^ 24) = .own ∧ op ≠ .read) ∨
      (areaOf (addr.toNat % 2 ^ 24) = .views ∧ s.viewRefuses (addr.toNat % 2 ^ 24) op = true)) →
    ∃ t, exec (.burstAnsweredError m addr op) s = .next t ∧ BlocksKept s t ∧ NoTraffic s t ∧ AtOnce s t m .error ∧
      ∀ k, k ≠ m.val → t.queue k = s.queue k

/-- The class of an arrival for position q, from d = (q - P) mod 8 and the lag L (R13): STALE at d = 0 and d = 7, LATE at 1 to L -
1, ON_TIME at L, EARLY at L + 1 to 6. But at d = 7 the frame is P + d, which belongs at position q, and is F where it is ON_TIME.
-/
def Obligations.ArrivalClasses : Prop :=
  ∀ (s : State) (q d : Nat), q < 8 → 1 ≤ s.src.lag → s.src.lag ≤ 6 → d = (q + 8 - s.P.toNat % 8) % 8 →
    (s.arrivalClass q = .stale ↔ d = 0 ∨ d = 7) ∧ (s.arrivalClass q = .late ↔ 1 ≤ d ∧ d + 1 ≤ s.src.lag) ∧
    (s.arrivalClass q = .onTime ↔ d = s.src.lag) ∧ (s.arrivalClass q = .early ↔ s.src.lag + 1 ≤ d ∧ d ≤ 6) ∧
    (d ≠ 7 → s.arrivalFrame q = s.P + BitVec.ofNat 32 d ∧ (s.arrivalFrame q).toNat % 8 = q) ∧
    (s.arrivalClass q = .onTime → s.arrivalFrame q = s.src.F)

/-- A talk write of a direct view, for a source taken for intake and a position in the acceptance window, is accepted: the
position's tag and level tag and the arrival counts are set, the frame goes to its home position in little-endian order, the OK
waits for memory's answer to it, and every enabled turret that names the source is PRESENT with run 0, no other turret changing. A
turret that becomes PRESENT has its TURRET_PRESENT notice, and on every line that rings at it its ringer term is asked, with a
RING_SILENT where that is refused; where none becomes PRESENT, the mix, the ring unit and the notices stay as they were. The home write
goes before the bursts of the notices that the arrival gives, and turrets and lines in ascending number, the model's choice (R7, R8,
R13, R14, R16, R26, R29, R110, R167, log entry 35). -/
def Obligations.TalkAccepted : Prop :=
  ∀ (s : State) (m : Master) (view : Fin 32) (place : Fin 256) (data : Burst) (r : ViewRec) (i q : Nat),
    s.Room m → r = (s.view view).record → r.enabled = true → r.width = 1 → place.val / 8 < r.channels →
    i = r.talkBase + place.val / 8 → q = place.val % 8 → (s.source i).intake = true → s.arrivalClass q ≠ .stale →
    ∃ t, exec (.talkWrite m view place data) s = .next t ∧
      t.source i = (s.source i).accept q (s.arrivalFrame q) (s.arrivalClass q) (r.order.convert data) ∧
      (∀ j, j ≠ i → t.source j = s.source j) ∧ Heard s t [i] ∧
      (∃ rest, (∀ f ∈ rest, f.isNotice = true) ∧ t.path.ownWait = s.path.ownWait ++
        { id := s.path.nextId + 1, addr := s.path.address (homeOffset i q), op := fullWrite (r.order.convert data),
          owner := .homeWrite i m s.path.nextId } :: rest) ∧
      Waits s t m s.path.nextId 1 ∧ (∀ k, k ≠ m.val → t.queue k = s.queue k) ∧
      t.src = { s.src with sources := t.src.sources, turrets := t.src.turrets } ∧ t.mem = s.mem ∧ t.line = s.line ∧
      t.group = s.group ∧ t.recorder = s.recorder ∧ t.plan = s.plan

/-- A talk write for a STALE position counts stale and nothing else; one for a source that is disabled or a TONE source changes no
block. Neither reaches memory, and OK is known at once (R12, R15, R16, R167). -/
def Obligations.TalkDropped : Prop :=
  ∀ (s : State) (m : Master) (view : Fin 32) (place : Fin 256) (data : Burst) (r : ViewRec) (i q : Nat),
    s.Room m → r = (s.view view).record → r.enabled = true → r.width = 1 → place.val / 8 < r.channels →
    i = r.talkBase + place.val / 8 → q = place.val % 8 →
    ((s.source i).intake = true → s.arrivalClass q = .stale →
      ∃ t, exec (.talkWrite m view place data) s = .next t ∧
        t.source i = { s.source i with
          arrivals := { (s.source i).arrivals with stale := (s.source i).arrivals.stale + 1 } } ∧
        (∀ j, j ≠ i → t.source j = s.source j) ∧ t.src = { s.src with sources := t.src.sources } ∧ t.mix = s.mix ∧
        t.line = s.line ∧ t.ring = s.ring ∧ t.group = s.group ∧ t.recorder = s.recorder ∧ t.plan = s.plan ∧
        t.notice = s.notice ∧ NoTraffic s t ∧ AtOnce s t m .ok) ∧
    ((s.source i).intake = false →
      ∃ t, exec (.talkWrite m view place data) s = .next t ∧ BlocksKept s t ∧ NoTraffic s t ∧ AtOnce s t m .ok)

/-- A gather burst that does not complete its block is kept in its slot, in place of a block for another position, which is
discarded and counted for each of its C sources taken for intake; OK is known at once (R17, R18, R167). -/
def Obligations.GatherStored : Prop :=
  ∀ (s : State) (m : Master) (view : Fin 32) (place : Fin 256) (data : Burst) (r : ViewRec) (C g q j : Nat) (b : Block),
    s.Room m → r = (s.view view).record → r.enabled = true → r.width = C → (C = 2 ∨ C = 4 ∨ C = 8) →
    place.val / 8 < r.channels → g = place.val / (8 * C) → q = place.val % (8 * C) / C → j = place.val % C →
    b = gatherInto ((s.view view).slots.get none g) q j (r.order.convert data) →
    ¬ (∀ k < C, k ∈ b.bursts.keys) →
    ∃ t, exec (.gatherBurst m view place data) s = .next t ∧
      t.view view = { s.view view with slots := (s.view view).slots.set g (some b) } ∧
      (∀ v, v ≠ view.val → t.view v = s.view v) ∧
      (∀ i, t.source i =
        if (∃ h, (s.view view).slots.get none g = some h ∧ h.position ≠ q) ∧ r.talkBase + g * C ≤ i ∧
            i < r.talkBase + g * C + C then (s.source i).breakGather
        else s.source i) ∧
      t.src = { s.src with views := t.src.views, sources := t.src.sources } ∧ t.mix = s.mix ∧ t.line = s.line ∧
      t.ring = s.ring ∧ t.group = s.group ∧ t.recorder = s.recorder ∧ t.plan = s.plan ∧ t.notice = s.notice ∧
      NoTraffic s t ∧ AtOnce s t m .ok

/-- The gather burst that completes a block empties the slot, and its C de-interleaved frames arrive for their C sources at one
position: dropped where the source is not taken for intake, counted where they are STALE, else accepted, each with its home write,
its tag and counts, and its turrets PRESENT with run 0, no other turret changing. A turret that becomes PRESENT has its
TURRET_PRESENT notice, and on every line that rings at it its ringer term is asked, with a RING_SILENT where that is refused; where
none becomes PRESENT, the mix, the ring unit and the notices stay as they were. The OK waits for memory's answers to the home writes,
and is known at once where there is none (R12 to R16, R19, R26, R110, R167). That sources, turrets and lines are taken in ascending
number, and the order of their home writes and notices, are the model's choice (log entry 35). -/
def Obligations.GatherCompletes : Prop :=
  ∀ (s : State) (m : Master) (view : Fin 32) (place : Fin 256) (data : Burst) (r : ViewRec) (C g q j : Nat) (b : Block),
    s.Room m → r = (s.view view).record → r.enabled = true → r.width = C → (C = 2 ∨ C = 4 ∨ C = 8) →
    place.val / 8 < r.channels → g = place.val / (8 * C) → q = place.val % (8 * C) / C → j = place.val % C →
    b = gatherInto ((s.view view).slots.get none g) q j (r.order.convert data) →
    (∀ k < C, k ∈ b.bursts.keys) →
    ∃ t, exec (.gatherBurst m view place data) s = .next t ∧
      t.view view = { s.view view with slots := (s.view view).slots.set g none } ∧ (t.view view).slots.get none g = none ∧
      (∀ v, v ≠ view.val → t.view v = s.view v) ∧
      (∀ i, t.source i =
        if r.talkBase + g * C ≤ i ∧ i < r.talkBase + g * C + C ∧ (s.source i).intake = true then
          if s.arrivalClass q = .stale then { s.source i with arrivals := (s.source i).arrivals.count .stale }
          else (s.source i).accept q (s.arrivalFrame q) (s.arrivalClass q) (gatherFrame C (i - (r.talkBase + g * C)) b)
        else s.source i) ∧
      (∀ accepted, accepted = (if s.arrivalClass q = .stale then []
          else (List.range C).filter fun k => (s.source (r.talkBase + g * C + k)).intake) →
        (∃ rest, t.path.ownWait = s.path.ownWait ++ rest ∧ (∀ f ∈ rest, (f.owner.isHomeWrite || f.isNotice) = true) ∧
          (rest.filter fun f => f.owner.isHomeWrite).map (fun f => (f.addr, f.op, f.owner)) = accepted.map fun k =>
            (s.path.address (homeOffset (r.talkBase + g * C + k) q), fullWrite (gatherFrame C k b),
              .homeWrite (r.talkBase + g * C + k) m s.path.nextId)) ∧
        (accepted ≠ [] → Waits s t m s.path.nextId accepted.length) ∧ (accepted = [] → AtOnce s t m .ok) ∧
        Heard s t (accepted.map fun k => r.talkBase + g * C + k)) ∧
      (∀ k, k ≠ m.val → t.queue k = s.queue k) ∧
      t.src = { s.src with views := t.src.views, sources := t.src.sources, turrets := t.src.turrets } ∧ t.mem = s.mem ∧ t.line = s.line ∧ t.group = s.group ∧ t.recorder = s.recorder ∧ t.plan = s.plan

/-- A home read of a direct view issues the part's own read of the home position and waits for its answer; nothing else changes (R9,
R167). -/
def Obligations.HomeRead : Prop :=
  ∀ (s : State) (m : Master) (view : Fin 32) (place : Fin 256) (r : ViewRec),
    s.Room m → r = (s.view view).record → r.enabled = true → r.width = 1 → place.val / 8 < r.channels →
    ∃ t, exec (.homeRead m view place) s = .next t ∧
      t.path.ownWait = s.path.ownWait ++
        [{ id := s.path.nextId + 1, addr := s.path.address (homeOffset (r.talkBase + place.val / 8) (place.val % 8)),
           op := .read, owner := .homeRead (r.talkBase + place.val / 8) m s.path.nextId r.order }] ∧
      Waits s t m s.path.nextId 1 ∧ BlocksKept s t ∧ t.mem = s.mem

/-- A listen read: zeros at once during CLOCK_LOST; else the mix of the slot for the P now in force, fixed now, at once where it
needs no home frame, and otherwise after the part's own reads of every home position it needs, issued now, one each, in the order
of the terms' sources (R10, R65, R66, R67, log entry 38). -/
def Obligations.ListenRead : Prop :=
  ∀ (s : State) (m : Master) (view : Fin 32) (place : Fin 256) (r : ViewRec) (w : Calc),
    s.Room m → r = (s.view view).record → r.enabled = true → place.val < r.channels →
    w = slotWork s (r.listenBase + place.val) →
    ∃ t, exec (.listenRead m view place) s = .next t ∧ t.mem = s.mem ∧ t.src = s.src ∧ t.line = s.line ∧
      t.group = s.group ∧ t.mix.slots = s.mix.slots ∧ t.mix.buses = s.mix.buses ∧
      (s.src.clockLost = true → BlocksKept s t ∧ NoTraffic s t ∧ AtOnce s t m (.okData 0)) ∧
      (s.src.clockLost = false → readsOf s w = [] →
        t.mix.listens = s.mix.listens ∧ NoTraffic s t ∧
          AtOnce s t m (.okData (r.order.convert ({ id := s.path.nextId, work := w } : Job).value))) ∧
      (s.src.clockLost = false → readsOf s w ≠ [] →
        ∃ e fs, t.mix.listens = s.mix.listens ++
            [{ job := { id := s.path.nextId, work := w }, master := m, entry := e, order := r.order }] ∧
          t.path.ownWait = s.path.ownWait ++ fs ∧
          fs.map (fun f => (f.addr, f.op, f.owner)) = (readsOf s w).map (fun x =>
            (s.path.address (homeOffset x.1 x.2), BurstOp.read, Owner.jobRead x.1 s.path.nextId)) ∧
          Waits s t m e 1)

/-- A master's write of a home position, full or partial: answered ERROR for an enabled MIC, LINE_IN or FEED source, and forwarded
for a TONE or disabled source, where memory's answer OK leaves its enabled bytes, and what it keeps after ERROR is open. No block
changes (R12, R163, R164, R167, log entry 6). -/
def Obligations.SourceHomeWrite : Prop :=
  ∀ (s : State) (m : Master) (source : Fin 384) (q : Fin 8) (data : Burst) (en : Enables) (ans : MemAnswer) (a : Nat),
    s.Room m → a = s.path.address (homeOffset source q) → s.path.Clear a →
    ∃ t, exec (.sourceHomeWrite m source q data en ans) s = .next t ∧ BlocksKept s t ∧
      ((s.source source).intake = true → NoTraffic s t ∧ AtOnce s t m .error) ∧
      ((s.source source).intake = false → ans = .later →
        t.mem = s.mem ∧ t.path.fwdWait = s.path.fwdWait ++
          [{ id := s.path.nextId, addr := a, op := .write data en, owner := .master m s.path.nextId .nobody }]) ∧
      ((s.source source).intake = false → ans = .ok →
        t.mem = writeBurst s.mem a data en ∧ OnlyStores s t a ∧ AtOnce s t m .ok) ∧
      ((s.source source).intake = false → ans = .error →
        t.mem = writeBurst s.mem a (Config.keptOnError s.path.nextId) en ∧ OnlyStores s t a ∧ AtOnce s t m .error)

/-- A partial write of an inbound signal, request or consumer cell counts one in partial_writes when it is taken, whatever memory
answers, goes to memory like any forwarded burst, and is handed to no block, an unanswered one waiting there for no block; what memory
keeps of it after ERROR is open (R76, R153, R165, R171, R182, R193, log entry 6). -/
def Obligations.PartialCellWrite : Prop :=
  ∀ (s : State) (m : Master) (addr : BitVec 32) (data : Burst) (en : Enables) (ans : MemAnswer) (h : Hand),
    s.Room m → s.path.decodes addr.toNat = true → areaOf (addr.toNat % 2 ^ 24) = .cell h → en ≠ Enables.full →
    s.path.Clear addr.toNat →
    ∃ t, exec (.partialCellWrite m addr data en ans) s = .next t ∧ BlocksKept s t ∧
      t.path.partialWrites = s.path.partialWrites + 1 ∧ OnlyStores s t addr.toNat ∧
      (ans = .later → t.mem = s.mem ∧ Waits s t m s.path.nextId 1 ∧
        t.path.fwdWait = s.path.fwdWait ++ [{ id := s.path.nextId, addr := addr.toNat, op := .write data en,
                                              owner := .master m s.path.nextId .nobody }]) ∧
      (ans = .ok → t.mem = writeBurst s.mem addr.toNat data en ∧ AtOnce s t m .ok) ∧
      (ans = .error → t.mem = writeBurst s.mem addr.toNat (Config.keptOnError s.path.nextId) en ∧ AtOnce s t m .error)

/-! ### Requests -/

/-- While a floor restart is pending, each of the twelve requests is refused RESTARTING in its reply ring, and no block but the
notice unit sees it (R182, R185). A request cell of no kind of the twelve, or with a reply ring above 3, is refused BAD_REQUEST with
its result in ring 0; one of a known kind with a reply ring up to 3 is a request like any other; a pending restart is looked at after
the kind and ring (R182, R183). That the result of a kind that is none of the twelve carries the kind byte as taken is the model's
choice (log entry 42). -/
def Obligations.RequestsRefused : Prop :=
  (∀ (c : Instr) (s : State) (h : RequestHead) (k : RequestKind),
    requestOf c = some (h, k) → s.Way h.master (requestOffset h.cell) → h.ring.toNat ≤ 3 → s.plan.restart.isSome = true →
    ∃ t, exec c s = .next t ∧ Served s t h k .restarting ∧ t.mix = s.mix ∧ t.line = s.line ∧ t.ring = s.ring ∧
      t.group = s.group ∧ t.recorder = s.recorder) ∧
  ∀ (s : State) (m : Master) (cell : Fin 256) (data : Burst), s.Way m (requestOffset cell) →
    ∃ x, Taken s.ready m (requestOffset cell) data x ∧
      (12 ≤ field data 0 1 ∨ 3 < field data 1 1 →
        exec (.badRequest m cell data) s =
          .next (x.handOnTo 0 (resultNotice x (replyOf cell data) (field data 0 1) .badRequest))) ∧
      (∀ k, RequestKind.list[field data 0 1]? = some k → field data 1 1 ≤ 3 →
        exec (.badRequest m cell data) s =
          .next (if s.plan.restart.isSome then x.result (replyOf cell data) k .restarting
                 else x.dispatch (replyOf cell data) data k))

/-- A request that its owner answers with any code but DONE leaves the state it found (R86 to R88, R92, R94, R120 to R122, R125 to
R127). -/
def Obligations.RefusedRequestsChangeNothing : Prop :=
  ∀ (s : State) (turret other n : Nat) (j : JoinRequest),
    ((s.lineKey turret other n).2 ≠ .done → (s.lineKey turret other n).1 = s) ∧
    ((s.lineRelease turret other n).2 ≠ .done → (s.lineRelease turret other n).1 = s) ∧
    ((s.lineHold turret other n).2 ≠ .done → (s.lineHold turret other n).1 = s) ∧
    ((s.groupJoin j).2 ≠ .done → (s.groupJoin j).1 = s) ∧
    ((s.groupLeave turret n).2 ≠ .done → (s.groupLeave turret n).1 = s) ∧
    ((s.talkKey turret n).2 ≠ .done → (s.talkKey turret n).1 = s) ∧
    ((s.talkUnkey turret n).2 ≠ .done → (s.talkUnkey turret n).1 = s)

/-- The checks of a LINE_KEY, the first that fails refusing it with its code, and nothing changes. 1: the turret is 0 to 63, the
handset L or R, the line 0 to 127 and enabled, else BAD_REQUEST. 2: the turret is PRESENT, else TURRET_ABSENT. 3: the line has an
appearance naming it, else NOT_APPEARANCE; a handset already joined is then answered DONE. 4: the handset is no group's, else
HANDSET_BUSY. 5: the line is not OUT_OF_SERVICE. 6: it can be joined in its state, else BUSY, or STATE in RELEASING. 7: the handset's
term fits its slot, less one where it leaves another line, and its mic the bus, else TERMS_FULL, or BAD_REQUEST for a mic already on
the bus. 8: a REQUIRED line in a channel-free state finds the recorder HEALTHY, else RECORDER_DOWN, and a channel free, else
NO_RECORD_CHANNEL (R86, R87). Where the slot has no room, or the bus is at its limit, and the bus has the mic too, that the code is
TERMS_FULL is the model's choice (log entry 13). -/
def Obligations.LineKeyChecks : Prop :=
  ∀ (s : State) (head : RequestHead) (turret handset : BitVec 8) (line : BitVec 16) (n h : Nat),
    s.RequestWay head → n = line.toNat → h = handsetOf turret.toNat handset.toNat →
    ∃ x, Taken s.ready head.master (requestOffset head.cell) (requestCell head .lineKey (lineFields turret handset line)) x ∧
      (∀ i c, FailsFirst (s.KeyFails turret.toNat handset.toNat n) i c → (3 < i → h ∉ (s.lineAt n).joined) →
        exec (.lineKey head turret handset line) s = .next (x.result (replyTo head) .lineKey c)) ∧
      ((∀ i ≤ 3, ∀ c, ¬ s.KeyFails turret.toNat handset.toNat n i c) → h ∈ (s.lineAt n).joined →
        exec (.lineKey head turret handset line) s = .next (x.result (replyTo head) .lineKey .done))

/-- A LINE_KEY whose checks pass and whose batch of edits is accepted is answered DONE: the handset is last on the line's joined
list and in its occupancy, and the line's state is that of R89. A handset on another line leaves it, as R85 says of LINE_KEY on
another line: a CONNECTED line that it leaves alone is parked with its hold term, or without one where its outbound slot has no room.
The outbound cells are written where the outbound states change, and the ring stops where the line was ringing. Where the line was in
a channel-free state, a REQUIRED or WANTED line takes the lowest free channel. The notices are the LINE_STATE of the line left with
cause LINE_SWITCH, that of the join with cause KEY, and CHANNEL_SKIPPED where a WANTED line found no channel; then the result. No
other line and no other handset changes (R77, R78, R84, R85, R86, R88, R89, R90, R95, R99, R105, R109, R139, R141). -/
def Obligations.LineKeyAccepted : Prop :=
  ∀ (s : State) (head : RequestHead) (turret handset : BitVec 8) (line : BitVec 16) (n h : Nat) (mx : MixEngine),
    s.RequestWay head → n = line.toNat → h = handsetOf turret.toNat handset.toNat →
    (∀ i c, ¬ s.KeyFails turret.toNat handset.toNat n i c) → h ∉ (s.lineAt n).joined → s.occupancy h ≠ .line n →
    s.mix.batch false (s.keyBatch turret.toNat handset.toNat n) = .ok mx →
    ∃ (t x y : State) (left skipped : List Notice) (code : Code),
      exec (.lineKey head turret handset line) s = .next t ∧ Served s t head .lineKey .done ∧
      Taken s.ready head.master (requestOffset head.cell) (requestCell head .lineKey (lineFields turret handset line)) x ∧
      t = y.result (replyTo head) .lineKey .done ∧
      Handed x (left ++ [handsetNotice s n h (s.lineAt n).status (t.lineAt n).status .key .done] ++ skipped) y ∧
      ((∀ m, s.occupancy h ≠ .line m) → left = []) ∧
      (∀ m, s.occupancy h = .line m →
        left = [handsetNotice s m h (s.lineAt m).status (t.lineAt m).status .lineSwitch code]) ∧
      (∀ lacking, lacking = (s.ChannelFree n ∧ (s.lineAt n).record.mode = .wanted ∧ ¬ s.HoldsChannel (.line n) ∧ s.PoolEmpty) →
        (lacking → skipped =
          [{ cls := .record, kind := .channelSkipped, code := .noRecordChannel, frame := s.src.F, object := some n,
             turret := some turret.toNat, handset := some h, old := some 1 }]) ∧
        (¬ lacking → skipped = [])) ∧
      (t.lineAt n).status = (s.lineAt n).status.keyed ∧ (t.lineAt n).joined = (s.lineAt n).joined ++ [h] ∧
      (t.lineAt n).holdPlaced = ((s.lineAt n).holdPlaced && (s.lineAt n).status != .held) ∧
      (t.lineAt n).record = (s.lineAt n).record ∧ (t.lineAt n).inbound = (s.lineAt n).inbound ∧
      (∀ j, t.occupancy j = if j = h then .line n else s.occupancy j) ∧
      (∀ m l, s.occupancy h = .line m → l = s.lineAt m →
        (t.lineAt m).joined = l.joined.filter (· != h) ∧
        (t.lineAt m).status = (if l.joined.filter (· != h) ≠ [] then l.status else l.status.left .lineSwitch) ∧
        (t.lineAt m).record = l.record ∧ (t.lineAt m).inbound = l.inbound ∧
        (∀ parked, parked = (l.joined.filter (· != h) = [] ∧ l.status = .connected ∧ l.record.hold.isSome = true) →
          (¬ parked → code = .done ∧ (t.lineAt m).holdPlaced = l.holdPlaced) ∧
          (parked → 12 ≤ (mx.slots.get {} l.record.out).occupancy →
            code = .termsFull ∧ (t.lineAt m).holdPlaced = l.holdPlaced) ∧
          (parked → (mx.slots.get {} l.record.out).occupancy < 12 →
            code = .done ∧ (t.lineAt m).holdPlaced = true ∧
              ∀ k, l.record.hold = some k → ∃ a ∈ (t.slot l.record.out).adds,
                a.term = { kind := .source k, gain := 16384 } ∧ a.origin = .line)) ∧
        (l.joined.filter (· != h) = [] → l.status = .outboundWait →
          ∃ f ∈ t.path.ownWait, f.owner = .signal m ∧ f.addr = s.path.address (outboundOffset m) ∧
            f.op = fullWrite (encodeOutbound .clear s.src.F)) ∧
        (l.joined.filter (· != h) = [] → (l.status = .outboundWait ∨ l.status = .farCleared) → ChannelsExclusive s →
          ∀ c < 64, (s.channel c).bound = some (.line m) → t.channel c = {} ∧
            List.Forall₂ (PendingRecord.Unbound (· = c)) s.recorder.records t.recorder.records)) ∧
      (∀ j, j ≠ n → s.occupancy h ≠ .line j → t.lineAt j = s.lineAt j) ∧
      ((s.lineAt n).status.outbound ≠ (s.lineAt n).status.keyed.outbound →
        ∃ f ∈ t.path.ownWait, f.owner = .signal n ∧ f.addr = s.path.address (outboundOffset n) ∧
          f.op = fullWrite (encodeOutbound (s.lineAt n).status.keyed.outbound s.src.F)) ∧
      ((s.lineAt n).status = .inboundRing → (t.player n).phase = .stopped ∧ (t.player n).terms = []) ∧
      ((s.lineAt n).status ≠ .inboundRing → t.ring = s.ring) ∧
      (s.ChannelFree n → (s.lineAt n).record.mode ≠ .never → ¬ s.HoldsChannel (.line n) →
        ∀ c, s.NextChannel c → t.channel c = { bound := some (.line n), dropped := 0 }) ∧
      (s.ChannelFree n → (s.lineAt n).record.mode = .required → t.HoldsChannel (.line n)) ∧
      (s.occupancy h = .vacant → (¬ s.ChannelFree n ∨ (s.lineAt n).record.mode = .never) → t.recorder = s.recorder) ∧
      (s.occupancy h = .vacant → (s.lineAt n).status ≠ .inboundRing → t.mix = mx) ∧
      t.group = s.group

/-- A LINE_RELEASE of a joined handset is answered DONE: the handset is off the line and vacant, what its join placed is asked to be
removed, and its line moves as R85 says of LINE_RELEASE, a release timer starting at 0 and CLEAR written to the outbound cell where
the outbound state changes; the record channel is freed where the line goes to IDLE, and else kept; a LINE_STATE with cause RELEASE
precedes the result. Fields out of range or a disabled line are refused
BAD_REQUEST, a handset not joined NOT_JOINED, and nothing changes (R85, R92, R93). -/
def Obligations.LineRelease : Prop :=
  ∀ (s : State) (head : RequestHead) (turret handset : BitVec 8) (line : BitVec 16) (n h : Nat),
    s.RequestWay head → n = line.toNat → h = handsetOf turret.toNat handset.toNat →
    (∃ x, Taken s.ready head.master (requestOffset head.cell)
        (requestCell head .lineRelease (lineFields turret handset line)) x ∧
      (lineFieldsOk s turret.toNat handset.toNat n = false →
        exec (.lineRelease head turret handset line) s = .next (x.result (replyTo head) .lineRelease .badRequest)) ∧
      (lineFieldsOk s turret.toNat handset.toNat n = true → h ∉ (s.lineAt n).joined →
        exec (.lineRelease head turret handset line) s = .next (x.result (replyTo head) .lineRelease .notJoined))) ∧
    (lineFieldsOk s turret.toNat handset.toNat n = true → h ∈ (s.lineAt n).joined →
      ∃ t, exec (.lineRelease head turret handset line) s = .next t ∧ Served s t head .lineRelease .done ∧
        (t.lineAt n).joined = (s.lineAt n).joined.filter (· != h) ∧
        (t.lineAt n).status =
          (if (s.lineAt n).joined.filter (· != h) ≠ [] then (s.lineAt n).status else (s.lineAt n).status.left .release) ∧
        ((t.lineAt n).status = .releasing → (s.lineAt n).status ≠ .releasing → (t.lineAt n).releaseTimer = 0) ∧
        (t.lineAt n).record = (s.lineAt n).record ∧ (t.lineAt n).inbound = (s.lineAt n).inbound ∧
        (∀ j, j ≠ n → t.lineAt j = s.lineAt j) ∧ (∀ j, t.occupancy j = if j = h then .vacant else s.occupancy j) ∧
        t.mix = s.mix.askEach (leaveEdits s n h) ∧ t.ring = s.ring ∧ t.group = s.group ∧
        t.recorder =
          (if (s.lineAt n).joined.filter (· != h) = [] ∧
              ((s.lineAt n).status = .outboundWait ∨ (s.lineAt n).status = .farCleared) then (s.reportIdle (.line n)).recorder
           else s.recorder) ∧
        ((t.lineAt n).status.outbound ≠ (s.lineAt n).status.outbound →
          ∃ f ∈ t.path.ownWait, f.owner = .signal n ∧ f.addr = s.path.address (outboundOffset n) ∧
            f.op = fullWrite (encodeOutbound .clear s.src.F)) ∧
        ∃ y : State, t = (y.handOn
          { cls := .line, kind := .lineState, cause := some .release, frame := s.src.F, object := some n,
            turret := some turret.toNat, handset := some h, old := some (s.lineAt n).status.code,
            new := some (t.lineAt n).status.code }).result (replyTo head) .lineRelease .done)

/-- A LINE_HOLD of a joined handset: with others still joined it leaves; the last one of a CONNECTED line parks it in HELD where the
batch of the leave and the hold term is accepted, and is refused TERMS_FULL where it is not; on any other line the last one is
refused STATE. A LINE_STATE with cause HOLD precedes the result DONE. Fields out of range or a disabled line are refused
BAD_REQUEST, a handset not joined NOT_JOINED (R85, R94, R95). -/
def Obligations.LineHold : Prop :=
  ∀ (s : State) (head : RequestHead) (turret handset : BitVec 8) (line : BitVec 16) (n h : Nat) (rest : List Nat),
    s.RequestWay head → n = line.toNat → h = handsetOf turret.toNat handset.toNat →
    rest = (s.lineAt n).joined.filter (· != h) →
    (∃ x, Taken s.ready head.master (requestOffset head.cell) (requestCell head .lineHold (lineFields turret handset line)) x ∧
      (lineFieldsOk s turret.toNat handset.toNat n = false →
        exec (.lineHold head turret handset line) s = .next (x.result (replyTo head) .lineHold .badRequest)) ∧
      (lineFieldsOk s turret.toNat handset.toNat n = true → h ∉ (s.lineAt n).joined →
        exec (.lineHold head turret handset line) s = .next (x.result (replyTo head) .lineHold .notJoined)) ∧
      (lineFieldsOk s turret.toNat handset.toNat n = true → h ∈ (s.lineAt n).joined → rest = [] →
        (s.lineAt n).status ≠ .connected →
        exec (.lineHold head turret handset line) s = .next (x.result (replyTo head) .lineHold .state)) ∧
      (∀ e, lineFieldsOk s turret.toNat handset.toNat n = true → h ∈ (s.lineAt n).joined → rest = [] →
        (s.lineAt n).status = .connected → s.mix.batch false (leaveEdits s n h ++ holdAdds (s.lineAt n)) = .error e →
        exec (.lineHold head turret handset line) s = .next (x.result (replyTo head) .lineHold .termsFull))) ∧
    (lineFieldsOk s turret.toNat handset.toNat n = true → h ∈ (s.lineAt n).joined →
      (rest ≠ [] →
        ∃ t, exec (.lineHold head turret handset line) s = .next t ∧ Served s t head .lineHold .done ∧
          t.lineAt n = { s.lineAt n with joined := rest } ∧ (∀ j, j ≠ n → t.lineAt j = s.lineAt j) ∧
          (∀ j, t.occupancy j = if j = h then .vacant else s.occupancy j) ∧
          t.mix = s.mix.askEach (leaveEdits s n h) ∧ t.ring = s.ring ∧ t.group = s.group ∧ t.recorder = s.recorder ∧
          ∃ y : State, t = (y.handOn
            { cls := .line, kind := .lineState, cause := some .hold, frame := s.src.F, object := some n,
              turret := some turret.toNat, handset := some h, old := some (s.lineAt n).status.code,
              new := some (t.lineAt n).status.code }).result (replyTo head) .lineHold .done) ∧
      (∀ mx, rest = [] → (s.lineAt n).status = .connected →
        s.mix.batch false (leaveEdits s n h ++ holdAdds (s.lineAt n)) = .ok mx →
        ∃ t, exec (.lineHold head turret handset line) s = .next t ∧ Served s t head .lineHold .done ∧
          t.lineAt n = { s.lineAt n with
            joined := [], status := .held, holdPlaced := (s.lineAt n).record.hold.isSome } ∧
          (∀ j, j ≠ n → t.lineAt j = s.lineAt j) ∧
          (∀ j, t.occupancy j = if j = h then .vacant else s.occupancy j) ∧
          t.mix = mx ∧ t.ring = s.ring ∧ t.group = s.group ∧ t.recorder = s.recorder ∧
          ∃ y : State, t = (y.handOn
            { cls := .line, kind := .lineState, cause := some .hold, frame := s.src.F, object := some n,
              turret := some turret.toNat, handset := some h, old := some (s.lineAt n).status.code,
              new := some (t.lineAt n).status.code }).result (replyTo head) .lineHold .done))

/-- The checks of a GROUP_JOIN, the first that fails refusing it with its code, and nothing changes. 1: turret, group, attach, the
SPEAKER's listen slot, a BOX attached to SPEAKER, the speaker mic of a talk-capable BOX join, else BAD_REQUEST. 2: the turret is
PRESENT, else TURRET_ABSENT. 3: it is no member, else ALREADY_MEMBER. 4: the group has room, else GROUP_FULL. 5: the handset is
vacant, else HANDSET_BUSY. 6: the term fits the slot and the mic the bus, else TERMS_FULL, or BAD_REQUEST for a mic already on the
bus. 7: a REQUIRED group with no members finds the recorder HEALTHY, else RECORDER_DOWN, and a channel free, else NO_RECORD_CHANNEL.
Where all pass the join is answered DONE: its edits are accepted, the member is last on the list, a handset is the group's, a group
with no members before takes the lowest free channel unless its mode is NONE, and MEMBER_JOINED, and CHANNEL_SKIPPED where a WANTED
group found none, precede the result (R78, R118 to R123, R139, R141). Where the slot has no room, or the
bus is at its limit, and the bus has the mic too, that the code is TERMS_FULL is the model's choice (log entry 13). -/
def Obligations.GroupJoin : Prop :=
  ∀ (s : State) (head : RequestHead) (turret group attach talkCap : BitVec 8) (slot listenGain talkGain : BitVec 16)
      (j : JoinRequest) (g : Nat) (d : Burst),
    s.RequestWay head → g = group.toNat →
    d = requestCell head .groupJoin
      ([turret, group, attach, talkCap] ++ le 2 slot.toNat ++ le 2 listenGain.toNat ++ le 2 talkGain.toNat) →
    j = { turret := turret.toNat, group := g, attach := attach.toNat, talk := talkCap.getLsbD 0, slot := slot.toNat,
          listenGain := listenGain.toNat, talkGain := talkGain.toNat } →
    ∃ x, Taken s.ready head.master (requestOffset head.cell) d x ∧
      (∀ i c, FailsFirst (s.JoinFails j) i c →
        exec (.groupJoin head turret group attach talkCap slot listenGain talkGain) s =
          .next (x.result (replyTo head) .groupJoin c)) ∧
      ((∀ i c, ¬ s.JoinFails j i c) →
        ∃ (t y : State) (skipped : List Notice),
          exec (.groupJoin head turret group attach talkCap slot listenGain talkGain) s = .next t ∧
          Served s t head .groupJoin .done ∧ t = y.result (replyTo head) .groupJoin .done ∧
          Handed x
            ({ cls := .group, kind := .memberJoined, cause := some .join, frame := s.src.F, object := some g,
               turret := some turret.toNat,
               handset := if attach.toNat ≤ 1 then some (handsetOf turret.toNat attach.toNat) else none,
               old := some (s.groupAt g).members.length, new := some ((s.groupAt g).members.length + 1) } :: skipped) y ∧
          (∀ lacking, lacking = ((s.groupAt g).members = [] ∧ (s.groupAt g).record.mode = .wanted ∧
              ¬ s.HoldsChannel (.group g) ∧ s.PoolEmpty) →
            (lacking → skipped =
              [{ cls := .record, kind := .channelSkipped, code := .noRecordChannel, frame := s.src.F, object := some g,
                 turret := some turret.toNat,
                 handset := if attach.toNat ≤ 1 then some (handsetOf turret.toNat attach.toNat) else none, old := some 2 }]) ∧
            (¬ lacking → skipped = [])) ∧
          t.groupAt g = { s.groupAt g with members := (s.groupAt g).members ++ [s.joinMember j] } ∧
          (∀ k, k ≠ g → t.groupAt k = s.groupAt k) ∧
          (∀ k, t.occupancy k =
            if attach.toNat ≤ 1 ∧ k = handsetOf turret.toNat attach.toNat then .group g else s.occupancy k) ∧
          s.mix.batch false (s.joinBatch j) = .ok t.mix ∧
          (((s.groupAt g).members ≠ [] ∨ (s.groupAt g).record.mode = .never) → t.recorder = s.recorder) ∧
          ((s.groupAt g).members = [] → (s.groupAt g).record.mode ≠ .never → ¬ s.HoldsChannel (.group g) →
            ∀ c, s.NextChannel c → t.channel c = { bound := some (.group g), dropped := 0 }) ∧
          ((s.groupAt g).members = [] → (s.groupAt g).record.mode = .required → t.HoldsChannel (.group g)) ∧
          t.line.lines = s.line.lines ∧ t.ring = s.ring)

/-- A GROUP_LEAVE of a member is answered DONE: the member is off the list, what its join placed is asked to be removed, its handset
is freed, the last member's leave frees the group's channel, and a MEMBER_LEFT with cause LEAVE precedes the result. It is refused
BAD_REQUEST for a turret above 63 or a group above 31, and NOT_MEMBER where the turret is no member (R78, R124, R125, R140). -/
def Obligations.GroupLeave : Prop :=
  ∀ (s : State) (head : RequestHead) (turret group : BitVec 8) (g : Nat), s.RequestWay head → g = group.toNat →
    (∃ x, Taken s.ready head.master (requestOffset head.cell) (requestCell head .groupLeave [turret, group]) x ∧
      (63 < turret.toNat ∨ 31 < g →
        exec (.groupLeave head turret group) s = .next (x.result (replyTo head) .groupLeave .badRequest)) ∧
      (turret.toNat ≤ 63 → g ≤ 31 → (s.groupAt g).member turret.toNat = none →
        exec (.groupLeave head turret group) s = .next (x.result (replyTo head) .groupLeave .notMember))) ∧
    ∀ m rest, turret.toNat ≤ 63 → g ≤ 31 → (s.groupAt g).member turret.toNat = some m →
      rest = (s.groupAt g).members.filter (fun o => o.turret != turret.toNat) →
      ∃ t, exec (.groupLeave head turret group) s = .next t ∧ Served s t head .groupLeave .done ∧
        t.groupAt g = { s.groupAt g with members := rest } ∧ (∀ k, k ≠ g → t.groupAt k = s.groupAt k) ∧
        (∀ k, t.occupancy k =
          if attachHandset turret.toNat m.attach = some k ∧ s.occupancy k = .group g then .vacant else s.occupancy k) ∧
        t.mix = s.mix.askEach (memberDrops g m) ∧
        t.recorder = (if rest = [] then (s.reportIdle (.group g)).recorder else s.recorder) ∧
        t.line.lines = s.line.lines ∧ t.ring = s.ring ∧
        ∃ y : State, t = (y.handOn
          { cls := .group, kind := .memberLeft, cause := some .leave, frame := s.src.F, object := some g,
            turret := some turret.toNat, handset := attachHandset turret.toNat m.attach,
            old := some (s.groupAt g).members.length, new := some rest.length }).result (replyTo head) .groupLeave .done

/-- TALK_KEY and TALK_UNKEY of a member with a key: DONE, and the key state is KEYED or UNKEYED, with keyed run 0 where it changes
and with a KEYED or UNKEYED notice before the result; nothing changes, and no such notice is written, where it was so before. They
are refused BAD_REQUEST, NOT_MEMBER, NOT_TALKER, and a TALK_KEY of a REQUIRED group during OUTAGE RECORDER_DOWN (R126, R127). -/
def Obligations.TalkKeys : Prop :=
  ∀ (s : State) (head : RequestHead) (turret group : BitVec 8) (down : Bool) (g : Nat) (c : Instr) (k : RequestKind),
    s.RequestWay head → g = group.toNat →
    (c = .talkKey head turret group ∧ k = .talkKey ∧ down = true ∨ c = .talkUnkey head turret group ∧ k = .talkUnkey ∧ down = false) →
    (∃ x, Taken s.ready head.master (requestOffset head.cell) (requestCell head k [turret, group]) x ∧
      (63 < turret.toNat ∨ 31 < g → exec c s = .next (x.result (replyTo head) k .badRequest)) ∧
      (turret.toNat ≤ 63 → g ≤ 31 → (s.groupAt g).member turret.toNat = none →
        exec c s = .next (x.result (replyTo head) k .notMember)) ∧
      ∀ m, turret.toNat ≤ 63 → g ≤ 31 → (s.groupAt g).member turret.toNat = some m →
        ((s.groupAt g).record.kind = .intercom ∨ m.talker = false → exec c s = .next (x.result (replyTo head) k .notTalker)) ∧
        ((s.groupAt g).record.kind = .box → m.talker = true → down = true → (s.groupAt g).record.mode = .required →
          s.recorder.status = .outage → exec c s = .next (x.result (replyTo head) k .recorderDown))) ∧
    ∀ m, turret.toNat ≤ 63 → g ≤ 31 → (s.groupAt g).member turret.toNat = some m → (s.groupAt g).record.kind = .box →
      m.talker = true → (down = true → (s.groupAt g).record.mode ≠ .required ∨ s.recorder.status = .healthy) →
      ∃ t, exec c s = .next t ∧ Served s t head k .done ∧
        t.groupAt g =
          (if m.keyed = down then s.groupAt g
           else { s.groupAt g with
             members := (s.groupAt g).members.map fun o =>
               if o.turret = turret.toNat then { o with keyed := down, keyedRun := 0 } else o }) ∧
        (∀ i, i ≠ g → t.groupAt i = s.groupAt i) ∧ t.mix = s.mix ∧ t.line = s.line ∧ t.ring = s.ring ∧
        t.recorder = s.recorder ∧
        ∃ x, Taken s.ready head.master (requestOffset head.cell) (requestCell head k [turret, group]) x ∧
          t = (if m.keyed = down then x
               else ({ x with group := t.group } : State).handOn
                 { cls := .group, kind := if down then .keyed else .unkeyed, cause := some (if down then .key else .unkey),
                   frame := s.src.F, object := some g, turret := some turret.toNat, old := some (if down then 0 else 1),
                   new := some (if down then 1 else 0) }).result (replyTo head) k .done

/-- A SET_TIME stages its seconds, in place of a value staged before, and is answered DONE; the floor time is as it was (R157). The
requests that are served at a close are kept, with no result yet: a LEVEL_SNAPSHOT or a STATE_IMAGE last on its pending
list, or on its deferred list while its image is being written, a CLEAR_COUNTS last on the list of clearings, a FLOOR_RESTART as the
pending restart; nothing else of any block changes (R43, R182, R184, R185, R195). -/
def Obligations.WaitingRequests : Prop :=
  ∀ (s : State) (h : RequestHead), s.RequestWay h →
    (∃ x, Taken s.ready h.master (requestOffset h.cell) (requestCell h .levelSnapshot []) x ∧
      exec (.levelSnapshot h) s = .next
        (if s.src.levelImage.isNone then { x with src.snapPending := s.src.snapPending ++ [replyTo h] }
         else { x with src.snapDeferred := s.src.snapDeferred ++ [replyTo h] })) ∧
    (∃ x, Taken s.ready h.master (requestOffset h.cell) (requestCell h .stateImage []) x ∧
      exec (.stateImage h) s = .next
        (if s.notice.image.isNone then { x with notice.imagePending := s.notice.imagePending ++ [replyTo h] }
         else { x with notice.imageDeferred := s.notice.imageDeferred ++ [replyTo h] })) ∧
    (∃ x, Taken s.ready h.master (requestOffset h.cell) (requestCell h .clearCounts []) x ∧
      exec (.clearCounts h) s = .next { x with plan.clears := s.plan.clears ++ [replyTo h] }) ∧
    (∃ x, Taken s.ready h.master (requestOffset h.cell) (requestCell h .floorRestart []) x ∧
      exec (.floorRestart h) s = .next { x with plan.restart := some (replyTo h) }) ∧
    ∀ seconds : BitVec 32,
      ∃ t, exec (.setTime h seconds) s = .next t ∧ Served s t h .setTime .done ∧
        t.recorder = { s.recorder with staged := some seconds } ∧ t.mix = s.mix ∧ t.line = s.line ∧ t.ring = s.ring ∧
        t.group = s.group

/-! ### Taken cells and the plan area -/

/-- A full write of an inbound signal cell. A code equal to the held one changes no block. Another replaces it, any code but CLEAR
and SEIZE being FAULT; on a disabled line that is all. On an enabled line the state moves as R81 to R83 say, and a FAULT sends every
joined handset away; the outbound cell is written where the outbound state changes, and else not; the record channel is freed on entry to
IDLE, INBOUND_RING or OUT_OF_SERVICE, and else kept; the leaves of a FAULT, the hold term and the ringer terms are asked of the mix
engine; and a LINE_STATE for each handset that a FAULT sends away, that of the change of state, and the RING_SILENTs of a ring are
handed on. Of the line itself nothing else changes, its record and banks and its release timer included, and its ring run only to 0 where
a ring starts; no other line changes (R76, R77, R80 to R83, R85, R95, R96, R98, R105, R108, R109). That a FAULT's handsets leave in join
order, each named in its notice, is the model's choice (log entry 40). So is what counts hold where the spec has them not used: a stopped player
keeps its step index and frames left, a player that starts its frames left, and the line its ring run and release timer (log entry
29). -/
def Obligations.InboundSignal : Prop :=
  ∀ (s : State) (m : Master) (line : Fin 128) (data : Burst) (code : Signal) (l : Line),
    s.Way m (inboundOffset line) → code = (Signal.list[field data 0 1]?).getD .fault → l = s.lineAt line →
    ∃ x t, Taken s.ready m (inboundOffset line) data x ∧ exec (.inboundSignalWrite m line data) s = .next t ∧
      OnlyStores s t (s.path.address (inboundOffset line)) ∧ (∀ k, t.queue k = x.queue k) ∧ t.path.returned = x.path.returned ∧
      t.src = s.src ∧ t.group = s.group ∧ t.plan = s.plan ∧ (∀ n, n ≠ line.val → t.lineAt n = s.lineAt n) ∧
      (l.inbound = code → BlocksKept s t) ∧
      (l.inbound ≠ code → l.record.enabled = false →
        t.lineAt line = { l with inbound := code } ∧ (∀ h, t.occupancy h = s.occupancy h) ∧ t.mix = s.mix ∧
          t.ring = s.ring ∧ t.recorder = s.recorder ∧ t.notice = s.notice) ∧
      (l.inbound ≠ code → l.record.enabled = true →
        t.lineAt line = l.farMoved code ∧
        (l.status ≠ .inboundRing → l.status.signalled code = .inboundRing → RingStarts s t line .farSeize) ∧
        (l.status = .inboundRing → l.status.signalled code ≠ .inboundRing →
          t.player line = { s.player line with phase := .stopped, terms := [] } ∧ ∀ k, k ≠ line.val → t.player k = s.player k) ∧
        (l.status ≠ .inboundRing → l.status.signalled code ≠ .inboundRing → t.ring = s.ring) ∧
        t.mix = s.mix.askEach (s.signalEdits line code) ∧
        t.recorder =
          (if l.status.signalled code ≠ l.status ∧ (l.status.signalled code = .idle ∨ l.status.signalled code = .inboundRing ∨
              l.status.signalled code = .outOfService) then (s.reportIdle (.line line)).recorder
           else s.recorder) ∧
        ((l.status.signalled code).outbound ≠ l.status.outbound →
          ∃ f ∈ t.path.ownWait, f.owner = .signal line ∧ f.addr = s.path.address (outboundOffset line) ∧
            f.op = fullWrite (encodeOutbound (l.status.signalled code).outbound s.src.F)) ∧
        ((l.status.signalled code).outbound = l.status.outbound →
          ∀ f ∈ t.path.ownWait, f.owner = .signal line → f ∈ x.path.ownWait) ∧
        Handed x (s.signalNotices line code) t ∧
        ∀ h, t.occupancy h =
          if code = .fault ∧ l.status ≠ .outOfService ∧ h ∈ l.joined then .vacant else s.occupancy h)

/-- A full write of a consumer cell: an index below the capacity becomes the ring's consumer shadow, one at or above it changes
nothing, and output INTk of a notice ring is asserted while its enable is on and its published index differs from the shadow. No
other block changes, and no notice is written. A partial write of one is forwarded and counted in partial_writes, and no block takes
it (R153, R193, R194). -/
def Obligations.ConsumerCells : Prop :=
  ∀ (s : State) (m : Master) (data : Burst) (i : Nat), i = field data 0 4 →
    (s.Way m recordConsumerOffset →
      ∃ t, exec (.recordConsumerWrite m data) s = .next t ∧
        t.recorder = (if i < s.recorder.cap then { s.recorder with consumer := i } else s.recorder) ∧
        OnlyStores s t (s.path.address recordConsumerOffset) ∧ t.src = s.src ∧ t.mix = s.mix ∧ t.line = s.line ∧
        t.ring = s.ring ∧ t.group = s.group ∧ t.plan = s.plan ∧ t.notice = s.notice) ∧
    (∀ k : Fin 4, s.Way m (noticeConsumerOffset k) →
      ∃ t, exec (.noticeConsumerWrite m k data) s = .next t ∧
        t.noticeRing k =
          (if i < (s.noticeRing k).cap then { s.noticeRing k with consumer := i } else s.noticeRing k) ∧
        (∀ j, j ≠ k.val → t.noticeRing j = s.noticeRing j) ∧
        (i < (s.noticeRing k).cap →
          (t.int k = true ↔ s.plan.floor.enables.getLsbD k = true ∧ (s.noticeRing k).published ≠ i)) ∧
        OnlyStores s t (s.path.address (noticeConsumerOffset k)) ∧ t.src = s.src ∧ t.mix = s.mix ∧ t.line = s.line ∧
        t.ring = s.ring ∧ t.group = s.group ∧ t.recorder = s.recorder ∧ t.plan = s.plan ∧
        t.notice.imagePending = s.notice.imagePending ∧ t.notice.image = s.notice.image) ∧
    ∀ (o : Nat) (a : BitVec 32) (en : Enables) (ans : MemAnswer),
      (o = recordConsumerOffset ∨ ∃ k : Fin 4, o = noticeConsumerOffset k) → s.Way m o → a.toNat = s.path.address o →
      en ≠ Enables.full →
      ∃ t, exec (.partialCellWrite m a data en ans) s = .next t ∧ BlocksKept s t ∧
        t.path.partialWrites = s.path.partialWrites + 1 ∧ OnlyStores s t (s.path.address o) ∧
        (ans = .ok → t.mem = writeBurst s.mem (s.path.address o) data en)

/-- A full write to the plan area is staged: in the place of the entry for its address, its held mark cleared, or at the end of the
list; a list of 64 refuses it STAGING_FULL, and an offset that is no record address RANGE, with a PLAN_RESULT at once and the list
as it was. A partial write stages nothing, counts in no count, and gives a PLAN_RESULT with code PARTIAL whatever memory answers,
its tag 0 where the tag's two bytes are not both enabled. It is forwarded, and the notice is handed on when it is taken; unanswered, it
waits for memory and is handed to no block then; answered, the master has memory's response at once, waiting bursts having been presented before
it, and memory keeps its enabled bytes on OK, and on ERROR what is open (R165 to R168, R173 to R175, R179, log entries 6, 14 and 23). -/
def Obligations.PlanWrites : Prop :=
  ∀ (s : State) (m : Master) (r : Fin 2048) (data : Burst), s.Way m (planOffset r) →
    (∃ x, Taken s.ready m (planOffset r) data x ∧
      ((recordId r).isNone = true →
        exec (.planWrite m r data) s = .next (x.handOn (planNotice x r (planTag data) .range))) ∧
      ((recordId r).isSome = true → (∃ e ∈ s.plan.staging, e.record = r.val) →
        exec (.planWrite m r data) s = .next { x with
          plan.staging := s.plan.staging.map fun e => if e.record = r.val then { record := r, data := data } else e }) ∧
      ((recordId r).isSome = true → (∀ e ∈ s.plan.staging, e.record ≠ r.val) → s.plan.staging.length < 64 →
        exec (.planWrite m r data) s = .next { x with plan.staging := s.plan.staging ++ [{ record := r, data := data }] }) ∧
      ((recordId r).isSome = true → (∀ e ∈ s.plan.staging, e.record ≠ r.val) → 64 ≤ s.plan.staging.length →
        exec (.planWrite m r data) s = .next (x.handOn (planNotice x r (planTag data) .stagingFull)))) ∧
    ∀ (en : Enables) (ans : MemAnswer), en ≠ Enables.full →
      ∃ y t, exec (.planPartialWrite m r data en ans) s = .next t ∧
        Handed s [planNotice s r (if en.getLsbD 30 = true ∧ en.getLsbD 31 = true then planTag data else 0) .partialWrite] y ∧
        t.notice = y.notice ∧ t.path.ownWait <:+ y.path.ownWait ∧ t.src = s.src ∧ t.mix = s.mix ∧ t.line = s.line ∧
        t.ring = s.ring ∧ t.group = s.group ∧ t.recorder = s.recorder ∧ t.plan = s.plan ∧
        t.path.partialWrites = s.path.partialWrites ∧ t.path.memoryFaults = s.path.memoryFaults ∧
        (∀ k, k ≠ m.val → t.queue k = s.queue k) ∧ OnlyStores s t (s.path.address (planOffset r)) ∧
        (ans = .later → t = y ∧ t.mem = s.mem ∧ Waits s t m s.path.nextId 1 ∧
          t.path.fwdWait = s.path.fwdWait ++ [{ id := s.path.nextId, addr := s.path.address (planOffset r), op := .write data en,
                                                owner := .master m s.path.nextId .nobody }]) ∧
        (ans = .ok → t.mem = writeBurst s.mem (s.path.address (planOffset r)) data en ∧ AtOnce s t m .ok) ∧
        (ans = .error → t.mem = writeBurst s.mem (s.path.address (planOffset r)) (Config.keptOnError s.path.nextId) en ∧
          AtOnce s t m .error)

/-! ### Memory's answers and the work that waits for them -/

/-- Memory answers a home write that nothing else in flight shares the address of: the OK that waits for it becomes known, on
ERROR too, which is counted. It answers a home read: the contents, converted to the view's order, or zeros on ERROR, become the
master's response. What memory keeps of a home write answered ERROR is open. A command for no such burst changes nothing (R9, R14,
R167, R169, R170, log entries 6 and 16). -/
def Obligations.HomeAnswers : Prop :=
  ∀ (s : State) (n : Nat) (ok : Bool),
    (∀ f i m e, (s.path.unanswered.filter fun g => g.owner.isHomeWrite)[n]? = some f → s.path.Alone f →
      f.owner = .homeWrite i m e →
      ∃ x, Answered s.ready f ok x ∧
        exec (.homeWriteAnswered n ok) s = .next
          (if ok then x.answerEntry m e none else (x.answerEntry m e none).countFault f.owner) ∧
        (s.queue m = [{ id := e, awaiting := 1, response := .ok }] →
          (x.answerEntry m e none).queue m = [] ∧ (x.answerEntry m e none).path.returned = [(m, .ok)])) ∧
    (∀ f i m e o d, (s.path.unanswered.filter fun g => g.owner.isHomeRead)[n]? = some f → s.path.Alone f →
      f.owner = .homeRead i m e o → d = (if ok then o.convert (readBurst s.mem f.addr) else 0) →
      ∃ x, Answered s.ready f ok x ∧
        exec (.homeReadAnswered n ok) s = .next
          (if ok then x.answerEntry m e (some (.okData d)) else (x.answerEntry m e (some (.okData d))).countFault f.owner) ∧
        (s.queue m = [{ id := e, awaiting := 1, response := .ok }] →
          (x.answerEntry m e (some (.okData d))).queue m = [] ∧
            (x.answerEntry m e (some (.okData d))).path.returned = [(m, .okData d)])) ∧
    ((s.path.unanswered.filter fun g => g.owner.isHomeWrite)[n]? = none →
      exec (.homeWriteAnswered n ok) s = .next s.ready) ∧
    ((s.path.unanswered.filter fun g => g.owner.isHomeRead)[n]? = none → exec (.homeReadAnswered n ok) s = .next s.ready)

/-- A listen read whose reads are each alone completes, memory answering OK the reads that it has not answered: the mix of the
frames that memory holds, in the view's byte order, is its response, and it is in flight no longer; memory and the other listen
reads stay (R8, R65, R67, log entry 33). -/
def Obligations.ListenReadCompletes : Prop :=
  ∀ (s : State) (n : Nat) (l : Machine.ListenRead), s.mix.listens[n]? = some l →
    (s.mix.listens.map fun k => k.job.id).Nodup → s.ReadsAlone [l.job.id] →
    ∃ t, exec (.listenReadComplete n) s = .next t ∧
      t.mix.listens = s.mix.listens.filter (fun k => k.job.id != l.job.id) ∧ t.mix.slots = s.mix.slots ∧
      t.mix.buses = s.mix.buses ∧ t.mem = s.mem ∧ t.src = s.src ∧
      t.line = s.line ∧ t.ring = s.ring ∧ t.group = s.group ∧ t.plan = s.plan ∧ t.notice = s.notice ∧
      (∀ k, k ≠ l.master → t.queue k = s.queue k) ∧
      (s.queue l.master = [{ id := l.entry, awaiting := 1, response := .ok }] →
        t.queue l.master = [] ∧ t.path.returned = [(l.master, .okData (l.order.convert (s.filled l.job).value))])

/-- Memory answers one of the part's own bursts ERROR. While the part is active the fault is counted and the mark set; a fault
that finds the mark clear gives a MEMORY_FAULT notice with F, the kind of the burst and its object, and one that finds it set
gives none. The use the burst served goes on: a home write's master has its OK, a home read's master zeros with OK, a listen read
or record takes the source without a frame and is marked faulted, an image being written is marked, and the last burst of one completes
it with cause FAULT; everything else of every block stands as though memory had answered OK, and memory changes at most at the burst's
32 bytes, at an outbound cell nowhere (R9, R14, R44, R77, R162, R169, R170, R195, log entry 6). That the MEMORY_FAULT notice of that last
burst comes before the IMAGE_DONE is the model's choice (log entry 12); that no image completes while RESET is asserted is an inference (log
entry 15). -/
def Obligations.MemoryFault : Prop :=
  ∀ (s : State) (n : Nat) (f : Flight),
    (s.path.unanswered.filter fun g => g.owner.isOwn)[n]? = some f → s.path.Alone f →
    ∃ t u, exec (.memoryFault n) s = .next u ∧
      Completes s f (s.src.levelImage.map fun j => { j with fault := true }) (s.notice.image.map fun j => { j with fault := true }) t u ∧
      OnlyStores s t f.addr ∧ ((∃ i, f.owner = .signal i) → t.mem = s.mem) ∧ t.line = s.line ∧ t.group = s.group ∧ t.ring = s.ring ∧ t.plan = s.plan ∧
      t.src = { s.src with levelImage :=
        if f.owner = .levelImage then s.src.levelImage.map (fun j => { j with fault := true }) else s.src.levelImage } ∧
      t.notice.imagePending = s.notice.imagePending ∧ t.notice.imageDeferred = s.notice.imageDeferred ∧
      t.notice.image = (if f.owner = .stateImage then s.notice.image.map (fun j => { j with fault := true }) else s.notice.image) ∧
      t.mix.slots = s.mix.slots ∧ t.mix.buses = s.mix.buses ∧ t.mix.cache = s.mix.cache ∧
      ((∀ i job, f.owner ≠ .jobRead i job) → t.mix = s.mix ∧ t.recorder = s.recorder) ∧
      (∀ i job, f.owner = .jobRead i job →
        t.mix.listens = s.mix.listens.map (fun l =>
          if l.job.id = job then { l with job := { l.job with faulted := true } } else l) ∧
        t.recorder = { s.recorder with records := s.recorder.records.map fun r =>
          { r with aPart := if r.aPart.id = job then { r.aPart with faulted := true } else r.aPart
                   bPart := if r.bPart.id = job then { r.bPart with faulted := true } else r.bPart } }) ∧
      (∀ i m e, f.owner = .homeWrite i m e → s.queue m = [{ id := e, awaiting := 1, response := .ok }] →
        t.queue m = [] ∧ t.path.returned = [(m, .ok)]) ∧
      (∀ i m e o, f.owner = .homeRead i m e o → s.queue m = [{ id := e, awaiting := 1, response := .ok }] →
        t.queue m = [] ∧ t.path.returned = [(m, .okData 0)]) ∧
      (s.path.active = false → t.path.memoryFaults = s.path.memoryFaults ∧ t.path.faultMark = s.path.faultMark) ∧
      (s.path.active = true →
        t.path.memoryFaults = s.path.memoryFaults + 1 ∧ t.path.faultMark = true ∧
        (s.path.faultMark = false →
          ∃ y : State, t = y.handOn { cls := .floor, kind := .memoryFault, cause := some f.owner.faultCause, frame := s.src.F,
                                      object := f.owner.faultObject }) ∧
        (s.path.faultMark = true → ∀ k, t.noticeRing k = s.noticeRing k))

/-- The first listed record comes to be placed, the reads of its parts being each alone, and those that memory has not answered
being answered OK. With room it is written to the entry at the producer index as three full bursts, header, A part and B part, the
producer moves on, and the dropped count of a channel still bound to its object, which the header carries, becomes 0. A channel that
has been freed since the listing is not still bound, be it granted to the same object again: its header carries 0, and a record dropped
for it counts nowhere. Without room
it is dropped: no burst of it is issued, the producer stays, the dropped count of such a channel grows, saturating, and a HEALTHY
recorder enters OUTAGE with an OUTAGE_BEGIN that names the channel and carries the record's P. It comes during CLOCK_LOST too
(R142, R145, R148, R150, R159, log entries 33 and 34). An idle report frees the object's channel and marks the records listed for it
(R140, R150). That the bursts are issued in that order, header first, is the model's choice (log entry 38). -/
def Obligations.RecordPlaced : Prop :=
  (∀ (s : State) (o : Obj) (c : Nat), c < 64 → (s.channel c).bound = some o → ChannelsExclusive s →
    (s.reportIdle o).channel c = {} ∧ (∀ e, e ≠ c → (s.reportIdle o).channel e = s.channel e) ∧
      s.reportIdle o = { s with recorder := { s.recorder with
        channels := (s.reportIdle o).recorder.channels
        records := s.recorder.records.map fun r => if r.channel = c then { r with freed := true } else r } }) ∧
  ∀ (s : State) (r : PendingRecord) (rest : List PendingRecord) (a b : Burst) (d : Nat) (bound : Prop),
    bound = ((s.channel r.channel).bound = some r.object ∧ r.freed = false) → s.path.active = true → s.recorder.records = r :: rest → s.ReadsAlone [r.aPart.id, r.bPart.id] →
    a = (s.filled r.aPart).value → b = (s.filled r.bPart).value →
    (bound → d = (s.channel r.channel).dropped) → (¬ bound → d = 0) →
    ∃ t, exec .recordPlace s = .next t ∧ t.mem = s.mem ∧ t.line = s.line ∧ t.group = s.group ∧ t.src = s.src ∧
      t.recorder.records.map (fun x => (x.batch, x.channel, x.object, x.frame)) =
        rest.map (fun x => (x.batch, x.channel, x.object, x.frame)) ∧
      (∀ c, c ≠ r.channel → t.channel c = s.channel c) ∧
      (1 ≤ s.recorder.free →
        t.recorder.producer = (s.recorder.producer + 1) % s.recorder.cap ∧ t.recorder.status = s.recorder.status ∧
        t.notice = s.notice ∧
        (bound → t.channel r.channel = { bound := some r.object, dropped := 0 }) ∧
        (¬ bound → t.channel r.channel = s.channel r.channel) ∧
        ∃ w fs, w <:+ s.path.ownWait ∧ t.path.ownWait = w ++ fs ∧
          fs.map (fun f => (f.addr, f.op, f.owner)) =
            [(s.path.address (recordOffset s.recorder.producer), fullWrite (encodeHeader r d a b), .record r.channel r.batch),
             (s.path.address (recordOffset s.recorder.producer + 32), fullWrite a, .record r.channel r.batch),
             (s.path.address (recordOffset s.recorder.producer + 64), fullWrite b, .record r.channel r.batch)]) ∧
      (s.recorder.free = 0 →
        t.recorder.producer = s.recorder.producer ∧ t.recorder.status = .outage ∧
        (bound → t.channel r.channel = { bound := some r.object, dropped := min 65535 (d + 1) }) ∧
        (¬ bound → t.channel r.channel = s.channel r.channel) ∧
        (∃ w fs, w <:+ s.path.ownWait ∧ t.path.ownWait = w ++ fs ∧ ∀ f ∈ fs, ∀ c batch, f.owner ≠ .record c batch) ∧
        (s.recorder.status = .outage → t.notice = s.notice) ∧
        (s.recorder.status = .healthy →
          ∃ y : State, y.notice = s.notice ∧ y.plan = s.plan ∧ y.src = s.src ∧
            t = { y.handOn
              { cls := .record, kind := .outageBegin, cause := some .ringFull, frame := r.frame, object := some r.channel,
                old := some RecorderState.healthy.code, new := some RecorderState.outage.code } with recorder := t.recorder }))

/-- The record progress cell of a close whose records are all placed is written once memory has answered its record bursts, and
carries the producer index, the close's P and the recorder state. The progress cell of a notice ring is written with an index below
which memory has answered every notice, those and no others being answered OK where they are still in flight, and that index becomes
the published one. Neither is written where it is not due; CLOCK_LOST
does not hold them back (R152, R159, R192, log entries 16, 30, 32, 33 and 34). -/
def Obligations.ProgressWrites : Prop :=
  ∀ s : State, s.path.active = true →
    (∀ (b : Batch) (q : Flight → Bool), s.recorder.progressDue = some b →
      (q = fun f => match f.owner with
        | .record _ batch => batch == b.id
        | _ => false) → s.path.EachAlone q →
      ∃ x, Drained s.ready q x ∧ exec .recordProgressWrite s = .next
        { x.issueWrite .recordProgress recordProgressOffset (encodeRecordProgress b.producerAfter b.frame s.recorder.status)
          with recorder.batches := s.recorder.batches.filter fun y => y.id != b.id }) ∧
    (s.recorder.progressDue = none → exec .recordProgressWrite s = .next s.ready) ∧
    (∀ (k : Fin 4) (i : Nat) (r : Ring) (below : Flight → Bool), r = s.noticeRing k →
      (below = fun f => (match f.owner with
        | .notice ring _ => ring == k.val
        | _ => false) && decide (some f.id ∈ r.unpublished.take (r.toPublish i))) →
      r.canPublish i = true → s.path.EachAlone below →
      ∃ x, Drained s.ready below x ∧
        exec (.noticeProgressWrite k i) s = .next
          ((x.issueWrite (.noticeProgress k) (noticeProgressOffset k) (encodeNoticeProgress i s.src.F)).setRing k
            { r with published := i, unpublished := r.unpublished.drop (r.toPublish i) })) ∧
    (∀ (k : Fin 4) (i : Nat), (s.noticeRing k).canPublish i = false → exec (.noticeProgressWrite k i) s = .next s.ready)

/-- When memory answers the last burst of an image, the others and it being answered OK where they are still in flight, IMAGE_DONE is
handed on with the captured P and then the results of the requests it serves, in order; the deferred requests become pending, and no
image is being written. Where none is being written, the command changes nothing (R43, R44, R195, log entries 16 and 33). -/
def Obligations.ImagesDone : Prop :=
  ∀ (s : State) (j : ImageJob), s.running = true →
    (s.src.levelImage = some j → s.path.EachAlone (fun f => f.owner == .levelImage) →
      ∃ x, Drained s.ready (fun f => f.owner == .levelImage) x ∧
        exec .levelImageDone s = .next (x.levelsWritten j)) ∧
    (s.notice.image = some j → s.path.EachAlone (fun f => f.owner == .stateImage) →
      ∃ x, Drained s.ready (fun f => f.owner == .stateImage) x ∧ exec .stateImageDone s = .next (x.stateWritten j)) ∧
    (s.src.levelImage = none → exec .levelImageDone s = .next s.ready) ∧
    (s.notice.image = none → exec .stateImageDone s = .next s.ready)

/-! ### The events of a close -/

/-- A PRESENT turret whose silence run has reached the loss limit becomes LOST: its handsets are off their lines, its ringer terms
are off every player's list, it is a member of no group, and nothing of another turret changes. A line that it leaves with no handset
moves as R85 says of a turret LOST: CONNECTED is parked in HELD, with its hold term or with code TERMS_FULL, OUTBOUND_WAIT and
FAR_CLEARED go to IDLE with their channel freed and CLEAR written where SEIZE stood; a group that it leaves with no member has its
channel freed; the records listed for a freed channel are marked. Where no hold term is asked the edits of the mix are its ringer
terms, its handsets' leaves and its memberships'. Where it is not due nothing changes (R27, R80, R85, R95, R97, R98, R110, R124, R131, R140, log entries 16 and 19). That
the notices are handed on in the order TURRET_LOST with P, handset L's LINE_STATE, handset R's, and the MEMBER_LEFTs in ascending
group is in part the model's choice (log entry 36). -/
def Obligations.TurretLost : Prop :=
  ∀ (s : State) (u : Fin 64),
    (s.clockRuns = true → (s.turret u).due s.plan.floor.lossLimit = true →
      ∃ (t : State) (leftL leftR : List Notice) (codeL codeR : Code), exec (.turretLost u) s = .next t ∧
        t.turret u = { s.turret u with presence := .lost } ∧ (∀ k, k ≠ u.val → t.turret k = s.turret k) ∧
        (∀ h n, (h = u.val * 2 ∨ h = u.val * 2 + 1) → s.occupancy h = .line n →
          h ∉ (t.lineAt n).joined ∧ t.occupancy h = .vacant) ∧
        (∀ h g m, (s.groupAt g).member u = some m → attachHandset u m.attach = some h → s.occupancy h = .group g → g < 32 →
          t.occupancy h = .vacant) ∧
        (∀ h, h ≠ u.val * 2 → h ≠ u.val * 2 + 1 → t.occupancy h = s.occupancy h) ∧
        (∀ n, s.occupancy (u.val * 2) ≠ .line n → s.occupancy (u.val * 2 + 1) ≠ .line n → t.lineAt n = s.lineAt n) ∧
        (∀ n l rest, (s.occupancy (u.val * 2) = .line n ∨ s.occupancy (u.val * 2 + 1) = .line n) → l = s.lineAt n →
          rest = l.joined.filter (fun k => !((k == u.val * 2 || k == u.val * 2 + 1) && s.occupancy k == .line n)) →
          t.lineAt n = { l with
            joined := rest, status := if rest = [] then l.status.left .turretLost else l.status
            holdPlaced := (t.lineAt n).holdPlaced } ∧
          (∀ parked, parked = (rest = [] ∧ l.status = .connected ∧ l.record.hold.isSome = true) →
            (¬ parked → (t.lineAt n).holdPlaced = l.holdPlaced) ∧
            (parked → (t.lineAt n).holdPlaced = true ∨
              ((t.lineAt n).holdPlaced = l.holdPlaced ∧ (codeL = .termsFull ∨ codeR = .termsFull)))) ∧
          (rest = [] → l.status = .outboundWait → s.path.active = true →
            ∃ f ∈ t.path.ownWait, f.owner = .signal n ∧ f.addr = s.path.address (outboundOffset n) ∧
              f.op = fullWrite (encodeOutbound .clear s.src.F))) ∧
        (∀ c < 64, ∀ freed, ChannelsExclusive s →
          freed = ((∃ n, (s.channel c).bound = some (.line n) ∧
              (s.occupancy (u.val * 2) = .line n ∨ s.occupancy (u.val * 2 + 1) = .line n) ∧ (t.lineAt n).joined = [] ∧
              ((s.lineAt n).status = .outboundWait ∨ (s.lineAt n).status = .farCleared)) ∨
            (∃ g < 32, (s.channel c).bound = some (.group g) ∧ (∃ m ∈ (s.groupAt g).members, m.turret = u.val) ∧
              (t.groupAt g).members = [])) →
          (freed → t.channel c = {}) ∧ (¬ freed → t.channel c = s.channel c)) ∧
        (ChannelsExclusive s →
          List.Forall₂ (PendingRecord.Unbound fun c => c < 64 ∧ (s.channel c).bound.isSome = true ∧ t.channel c = {})
            s.recorder.records t.recorder.records) ∧
        t.recorder = { s.recorder with channels := t.recorder.channels, records := t.recorder.records } ∧
        (∀ n < 128, ∀ e ∈ (t.player n).terms, e.1 ≠ u.val) ∧
        (∀ g < 32, (t.groupAt g).members = (s.groupAt g).members.filter (fun m => m.turret != u.val) ∧
          (t.groupAt g).record = (s.groupAt g).record) ∧
        t.mem = s.mem ∧ t.src.sources = s.src.sources ∧ t.plan = s.plan ∧
        ((∀ n, (s.occupancy (u.val * 2) = .line n ∨ s.occupancy (u.val * 2 + 1) = .line n) → (t.lineAt n).joined = [] →
            (s.lineAt n).status = .connected → (s.lineAt n).record.hold = none) →
          t.mix = s.mix.askEach (s.lossEdits u)) ∧
        Handed s
          ([{ cls := .turret, kind := .turretLost, frame := s.P, object := some u.val, turret := some u.val }] ++ leftL ++ leftR ++
            (List.range 32).filterMap fun g => ((s.groupAt g).member u).map fun m =>
              { cls := .group, kind := .memberLeft, cause := some .turretLost, frame := s.src.F, object := some g,
                turret := some u.val, handset := attachHandset u m.attach, old := some (s.groupAt g).members.length,
                new := some (t.groupAt g).members.length }) t ∧
        ((∀ n, s.occupancy (u.val * 2) ≠ .line n) → leftL = []) ∧ ((∀ n, s.occupancy (u.val * 2 + 1) ≠ .line n) → leftR = []) ∧
        (∀ n l mid, l = s.lineAt n →
          mid = (if l.joined.filter (· != u.val * 2) = [] then l.status.left .turretLost else l.status) →
          (s.occupancy (u.val * 2) = .line n → leftL = [handsetNotice s n (u.val * 2) l.status mid .turretLost codeL]) ∧
          (s.occupancy (u.val * 2 + 1) = .line n → leftR = [handsetNotice s n (u.val * 2 + 1)
            (if s.occupancy (u.val * 2) = .line n then mid else l.status) (t.lineAt n).status .turretLost codeR])) ∧
        ∀ h code, (h = u.val * 2 ∧ code = codeL) ∨ (h = u.val * 2 + 1 ∧ code = codeR) →
          code = .done ∨ (code = .termsFull ∧ ∃ n, s.occupancy h = .line n ∧ (s.lineAt n).status = .connected ∧
            (s.lineAt n).record.hold.isSome = true ∧ (t.lineAt n).status = .held ∧
            (t.lineAt n).holdPlaced = (s.lineAt n).holdPlaced)) ∧
    (s.clockRuns = false ∨ (s.turret u).due s.plan.floor.lossLimit = false → exec (.turretLost u) s = .next s.ready)

/-- The limits of lines and keys, where they are due: a ring run at ring limit × 100 makes a ringing line UNANSWERED and stops its
ring, with a LINE_STATE of cause RING_LIMIT; a release timer at the release limit makes a RELEASING line ring again from step 0, its
channel freed, with a LINE_STATE of cause RELEASE_TIMEOUT before the RING_SILENTs of the terms that find no room; a keyed run that reached the key limit
at the close and has grown since makes a box member UNKEYED, with a KEY_TIMEOUT carrying F, while one that equals the limit after
a close is left to the next. No other line, group or member changes, no other notice is handed on, and where a limit is not reached
nothing changes (R80, R93, R96, R105, R108, R109, R112, R129, R130, log entries 16 and 19). That the ring run stays in UNANSWERED, and the release timer in INBOUND_RING,
and that a stopped player keeps its step index and frames left and one that starts its frames left, is the model's choice (log entry
29). -/
def Obligations.Timeouts : Prop :=
  ∀ (s : State) (n : Fin 128) (g : Fin 32) (u : Fin 64),
    (s.clockRuns = true → (s.lineAt n).record.enabled = true → (s.lineAt n).status = .inboundRing → (s.lineAt n).record.ringLimit ≠ 0 →
      (s.lineAt n).ringRun = (s.lineAt n).record.ringLimit * 100 →
      ∃ t, exec (.ringLimit n) s = .next t ∧ t.lineAt n = { s.lineAt n with status := .unanswered } ∧
        (∀ k, k ≠ n.val → t.lineAt k = s.lineAt k) ∧ (∀ h, t.occupancy h = s.occupancy h) ∧
        t.player n = { s.player n with phase := .stopped, terms := [] } ∧ (∀ k, k ≠ n.val → t.player k = s.player k) ∧
        t.mix = s.mix.askEach (s.ringDrops n) ∧ t.mem = s.mem ∧ t.src = s.src ∧ t.group = s.group ∧
        t.recorder = s.recorder ∧ t.plan = s.plan ∧ Handed s [changeNotice s n .inboundRing .unanswered .ringLimit] t) ∧
    (s.clockRuns = true → (s.lineAt n).record.enabled = true → (s.lineAt n).status = .releasing →
      s.plan.floor.releaseLimit ≤ (s.lineAt n).releaseTimer →
      ∃ t, exec (.releaseTimeout n) s = .next t ∧ t.lineAt n = { s.lineAt n with status := .inboundRing, ringRun := 0 } ∧
        (∀ k, k ≠ n.val → t.lineAt k = s.lineAt k) ∧ (∀ h, t.occupancy h = s.occupancy h) ∧
        RingStarts s t n .releaseTimeout ∧
        t.recorder = (s.reportIdle (.line n)).recorder ∧ t.mem = s.mem ∧ t.src = s.src ∧ t.group = s.group ∧
        t.plan = s.plan ∧
        Handed s (changeNotice s n .releasing .inboundRing .releaseTimeout :: s.ringSilents n .releaseTimeout) t) ∧
    (∀ m, s.clockRuns = true → (s.groupAt g).member u = some m → (s.groupAt g).record.enabled = true → (s.groupAt g).record.kind = .box →
      (s.groupAt g).record.keyLimit ≠ 0 → m.keyed = true → (s.groupAt g).record.keyLimit < m.keyedRun →
      ∃ t, exec (.keyTimeout g u) s = .next t ∧
        Handed s [{ cls := .group, kind := .unkeyed, cause := some .keyTimeout, frame := s.src.F, object := some g.val,
                    turret := some u.val, old := some 1, new := some 0 }] t ∧
        t.groupAt g = { s.groupAt g with
          members := (s.groupAt g).members.map fun o =>
            if o.turret = u.val then { o with keyed := false, keyedRun := 0 } else o } ∧
        (∀ k, k ≠ g.val → t.groupAt k = s.groupAt k) ∧ t.mem = s.mem ∧ t.src = s.src ∧ t.mix = s.mix ∧
        t.line = s.line ∧ t.ring = s.ring ∧ t.recorder = s.recorder ∧ t.plan = s.plan) ∧
    (s.clockRuns = false ∨ (s.lineAt n).record.enabled = false ∨ (s.lineAt n).status ≠ .inboundRing ∨ (s.lineAt n).record.ringLimit = 0 ∨
        (s.lineAt n).ringRun ≠ (s.lineAt n).record.ringLimit * 100 → exec (.ringLimit n) s = .next s.ready) ∧
    (s.clockRuns = false ∨ (s.lineAt n).record.enabled = false ∨ (s.lineAt n).status ≠ .releasing ∨
        (s.lineAt n).releaseTimer < s.plan.floor.releaseLimit →
      exec (.releaseTimeout n) s = .next s.ready) ∧
    (s.clockRuns = false ∨ (s.groupAt g).record.enabled = false ∨ (s.groupAt g).record.kind ≠ .box ∨
        (s.groupAt g).record.keyLimit = 0 ∨ (s.groupAt g).member u = none ∨
        (∃ m, (s.groupAt g).member u = some m ∧ (m.keyed = false ∨ m.keyedRun ≤ (s.groupAt g).record.keyLimit)) →
      exec (.keyTimeout g u) s = .next s.ready)

/-- The detection events of one source, where they are due: a guard run at a guard limit other than 0 with the flag on makes a
source that is not GUARDED GUARDED, with a GUARD_ON carrying P; a hang counter at 0 on a quiet frame turns the flag off. No other
source changes, and where neither is due nothing does (R37, R39, R41, log entries 16 and 19). -/
def Obligations.GuardAndHang : Prop :=
  ∀ (s : State) (i : Fin 384) (x : Source), x = s.source i →
    (s.clockRuns = true → x.intake = true → x.det.guarded = false → x.record.guardLimit ≠ 0 → x.det.flag = true →
      x.record.guardLimit ≤ x.det.guardRun →
      ∃ t y : State, exec (.guardOn i) s = .next t ∧ t.source i = { x with det := { x.det with guarded := true } } ∧
        t = y.handOn { cls := .source, kind := .guardOn, frame := s.P, object := some i.val, old := some 0, new := some 1 } ∧
        (∀ k, k ≠ i.val → t.source k = s.source k) ∧ t.src.turrets = s.src.turrets ∧ t.mem = s.mem ∧ t.mix = s.mix ∧
        t.line = s.line ∧ t.ring = s.ring ∧ t.group = s.group ∧ t.recorder = s.recorder ∧ t.plan = s.plan) ∧
    (s.clockRuns = false ∨ x.intake = false ∨ x.det.guarded = true ∨ x.record.guardLimit = 0 ∨ x.det.flag = false ∨
        x.det.guardRun < x.record.guardLimit → exec (.guardOn i) s = .next s.ready) ∧
    (s.clockRuns = true → x.intake = true → x.det.flag = true → x.det.hang = 0 → x.det.history.head? = some false →
      ∃ t, exec (.hangExpiry i) s = .next t ∧ t.source i = { x with det := { x.det with flag := false } } ∧
        (∀ k, k ≠ i.val → t.source k = s.source k) ∧ t.src.turrets = s.src.turrets ∧ t.mem = s.mem ∧ t.mix = s.mix ∧
        t.line = s.line ∧ t.ring = s.ring ∧ t.group = s.group ∧ t.recorder = s.recorder ∧ t.plan = s.plan ∧
        t.notice = s.notice) ∧
    (s.clockRuns = false ∨ x.intake = false → exec (.hangExpiry i) s = .next s.ready) ∧
    (x.det.flag = false ∨ x.det.hang ≠ 0 ∨ x.det.history.head? ≠ some false →
      ∃ t, exec (.hangExpiry i) s = .next t ∧ (∀ k, t.source k = s.source k) ∧ t.src.turrets = s.src.turrets ∧
        t.mem = s.mem ∧ t.mix = s.mix ∧ t.line = s.line ∧ t.ring = s.ring ∧ t.group = s.group ∧ t.recorder = s.recorder ∧
        t.plan = s.plan ∧ t.notice = s.notice)

/-- A STEPPING player with no frames left leaves its step: for the next one with its duration, for step 0 where the program repeats,
or for HOLDING; its gate and tone are those of the step it then holds. No other player changes, and a player that is not STEPPING or
has frames left does not (R106, R107, log entries 16 and 19). That a HOLDING player keeps the frames-left count 0 is the model's choice
(log entry 29). -/
def Obligations.CadenceStepEnd : Prop :=
  ∀ (s : State) (n : Fin 128) (p : Player) (prog : Program), p = s.player n →
    prog = s.program (s.lineAt n).record.program →
    (s.clockRuns = true → p.phase = .stepping → p.left = 0 →
      ∃ t, exec (.cadenceStepEnd n) s = .next t ∧ (∀ k, k ≠ n.val → t.player k = s.player k) ∧ t.src = s.src ∧
        t.mix = s.mix ∧ t.line = s.line ∧ t.group = s.group ∧ t.recorder = s.recorder ∧ t.plan = s.plan ∧
        t.notice = s.notice ∧ t.mem = s.mem ∧
        (∀ st, prog.steps[p.index + 1]? = some st →
          t.player n = { p with index := p.index + 1, left := st.duration, gate := st.gate, tone := st.tone }) ∧
        (∀ st, prog.steps.length ≤ p.index + 1 → prog.ending = .repeats → prog.steps[0]? = some st →
          t.player n = { p with index := 0, left := st.duration, gate := st.gate, tone := st.tone }) ∧
        (∀ st, prog.steps.length ≤ p.index + 1 → prog.ending = .holdLast → prog.steps[p.index]? = some st →
          t.player n = { p with phase := .holding, gate := st.gate, tone := st.tone })) ∧
    (s.clockRuns = false ∨ p.phase ≠ .stepping ∨ p.left ≠ 0 → exec (.cadenceStepEnd n) s = .next s.ready)

/-! ### Invariants that every command keeps -/

/-- Every command keeps memory in its one canonical form, so that equal memories are equal data (log entry 8). -/
def Obligations.MemoryStaysCanonical : Prop :=
  ∀ s t : State, MemoryCanonical s.mem → step s = .next t → MemoryCanonical t.mem

/-- Every command keeps each response queue at 16 entries or fewer, and the staging list at 64 entries or fewer, no two for one
address, each for a record address (R166, R174). -/
def Obligations.QueuesStayBounded : Prop :=
  ∀ s t : State, step s = .next t →
    (QueuesBounded s → QueuesBounded t) ∧ (StagingOk s → StagingOk t)

/-- Every command keeps the channels exclusive, no line or group holding two, the member lists with at most one member per turret,
of the 64, and the agreement of the occupancy table with the joined lists and the member lists; the held inbound code that follows from
an enabled line's state, and a player that runs exactly while its line is in INBOUND_RING; and, given that agreement, the recording law:
a REQUIRED line is in OUTBOUND_WAIT, CONNECTED, HELD, FAR_CLEARED or RELEASING only while it holds a record channel, and a REQUIRED group
has turret members only while it holds one. No line holds a channel in another state, no group without members, and none of record mode
NONE (R73, R76, R78, R79, R98, R99, R105, R109, R117, R132, R133, R138). -/
def Obligations.HoldingsStayExclusive : Prop :=
  ∀ s t : State, step s = .next t →
    (ChannelsExclusive s → ChannelsExclusive t) ∧ (MembersOk s → MembersOk t) ∧
    (MembersOk s → HandsetsOk s → HandsetsOk t) ∧
    (SignalsFollow s → SignalsFollow t) ∧ (RingsFollow s → RingsFollow t) ∧
    (HandsetsOk s → RecordingLaw s → RecordingLaw t) ∧
    (ChannelsExclusive s → HandsetsOk s → ChannelsFollow s → ChannelsFollow t)

/-- Every command keeps the frame-in-second in 0 to 999, the floor record in force and the lag in their ranges, the indices of the
notice rings and of the record ring below their capacities, the recipes in their 6 planned terms and occupancy of 12, and the
contributor lists of line and group buses in their 5 and 24 with no source twice (R2, R47, R52, R55, R59, R150, R155, R180,
R190). -/
def Obligations.RangesStay : Prop :=
  ∀ s t : State, step s = .next t →
    (TimeOk s → TimeOk t) ∧ (FloorOk s → FloorOk t) ∧ (RingsOk s → RingsOk t) ∧ (MixOk s → MixOk t)

/-! ### Arithmetic -/

/-- The smoothed level (R33): at every close the level of a source that is detected for P moves by floor((m - old) / 8), m being the
level that its playout status takes for P, and old the level it had, or 0 where the close restarts the floor or enables the source;
it stays in 0 to 32768, rises by nothing for a gap of 1 to 7, falls by 1 for a gap of -1 to -7 and stays for no gap; it is 0 after
the source is enabled, after reset and after a restart. -/
def Obligations.SmoothedLevel : Prop :=
  (∀ old m : Nat, old ≤ 32768 → m ≤ 32768 →
    (smooth old m : Int) = old + Int.fdiv ((m : Int) - old) 8 ∧ smooth old m ≤ 32768 ∧
    (old < m → m ≤ old + 7 → smooth old m = old) ∧ (m < old → old ≤ m + 7 → smooth old m + 1 = old) ∧
    (old < m → old ≤ smooth old m ∧ smooth old m < m) ∧ (m < old → m ≤ smooth old m ∧ smooth old m < old) ∧
    smooth old old = old) ∧
  (∀ (s : State) (o : CloseOrder) (i : Nat), s.running = true →
    ∃ (t : State) (x : Source), exec (.frameClose o) s = .next t ∧ (t.source i).record = x.record ∧
      (x.intake = true → (t.source i).det.smoothed = smooth x.det.smoothed (x.levelFor t.P (x.decide t.P))) ∧
      (x.det.smoothed = (s.source i).det.smoothed ∨ x.det.smoothed = 0) ∧
      ((∀ e ∈ s.plan.staging, recordId e.record ≠ some (.source i)) →
        x.record = (s.source i).record ∧
        (s.plan.restart = none → x.tags = (s.source i).tags ∧ x.levels = (s.source i).levels ∧ x.det = (s.source i).det) ∧
        (s.plan.restart.isSome → x.det.smoothed = 0))) ∧
  (∀ (x : Source) (r : SourceRec), r.enabled = true → (x.record.enabled = false ∨ r.kind ≠ x.record.kind) →
    (x.apply r).det.smoothed = 0) ∧
  (∀ i, (State.reset.source i).det.smoothed = 0) ∧ ∀ x : Source, x.restart.det.smoothed = 0

/-- The checksum of a record (R149): in the three bursts written for it, header, A part and B part, the two checksum bytes hold
65535 minus the sum of the other 94 bytes, which lies in 41565 to 65535, so that a reader that adds the 94 bytes to it finds 65535;
a sum of 12345 gives 53190. -/
def Obligations.RecordChecksum : Prop :=
  ∀ (r : PendingRecord) (dropped : Nat) (a b h : Burst) (sum : Nat), h = encodeHeader r dropped a b →
    sum = ((List.range 30).map fun i => (byteOf h i).toNat).sum + byteSum a + byteSum b →
    field h 30 2 = 65535 - sum ∧ sum + field h 30 2 = 65535 ∧ 41565 ≤ field h 30 2 ∧ field h 30 2 ≤ 65535 ∧
    (sum = 12345 → field h 30 2 = 53190)

/-- The selection of a group bus for P (R50): it holds at most K contributors of the bus, K being the talker cap; each was
permitted, not GUARDED, with its talk flag on (OPEN) or its key latched (KEYED); they stand in ranking order, by smoothed level and
then by source number; and no permitted contributor that is left out ranks before one that is selected, none being left out where
there are K or fewer. With no candidate the bus value is 0. The selected contributors are the counted ones, and the talker list of
the group's record in ranking order. A record gives K as 1 to 6. -/
def Obligations.SelectionOfGroupBus : Prop :=
  ∀ (s : State) (g : Nat),
    (selection s g).length = min (s.groupAt g).record.cap ((s.bus (128 + g)).inForce.filter (permitted s g)).length ∧
    (∀ c ∈ selection s g, c ∈ (s.bus (128 + g)).inForce ∧ (s.source c.source).handedGuarded = false ∧
      (c.kind = .opened → (s.source c.source).handedFlag = true) ∧
      (c.kind = .keyed → c.source ∈ (s.groupAt g).latched)) ∧
    (selection s g).Pairwise (fun c d => ranksBefore s d c = false) ∧
    (∀ c ∈ (s.bus (128 + g)).inForce, permitted s g c = true → c ∉ selection s g →
      ∀ d ∈ selection s g, ranksBefore s c d = false) ∧
    counted s (128 + g) = selection s g ∧
    ((s.bus (128 + g)).inForce.filter (permitted s g) = [] →
      ∀ got e i, busValue got (countedPairs s (128 + g)) e i = 0) ∧
    (∀ batch c, (s.listGroup batch c g).2.talkers = (selection s g).map (·.source)) ∧
    ∀ d r, parseGroup d = some r → 1 ≤ r.cap ∧ r.cap ≤ 6

/-- The arithmetic of the mix (R61, R63): round14 is the nearest multiple, halves upward; saturation gives 32767 above it, -32768
below -32768, and a value in between as it is; a mixed sample lies in -32768 to 32767; at unity volume the second rounding gives
the first back; and a listener excluded from a bus hears what it would hear had it never been counted. -/
def Obligations.MixArithmetic : Prop :=
  (∀ v : Int, 16384 * round14 v - 8192 ≤ v ∧ v < 16384 * round14 v + 8192) ∧
  (∀ v : Int, (32767 < v → sat16 v = 32767) ∧ (v < -32768 → sat16 v = -32768) ∧
    (-32768 ≤ v → v ≤ 32767 → sat16 v = v)) ∧
  (∀ (got : List (Nat × Burst)) (volume : Nat) (ts : List MixTerm) (i : Nat),
    -32768 ≤ mixSample got volume ts i ∧ mixSample got volume ts i ≤ 32767) ∧
  (∀ (got : List (Nat × Burst)) (ts : List MixTerm) (i : Nat),
    mixSample got 16384 ts i = sat16 (round14 (ts.map (termValue got i)).sum)) ∧
  (∀ (got : List (Nat × Burst)) (l : List (Nat × Nat)) (e i : Nat), (l.map (·.1)).Nodup →
    busValue got l (some e) i = busValue got (l.filter fun c => c.1 != e) none i)
end

