-- ==== Sys2Proof/Laws/State.lean ====
section
/-!
SUPPORT. The laws of the tables and of the record updates of State: what is read back, and what an update leaves of every
unit.
-/

namespace Sys2Proof

/-! ### Tables -/

/-- Reading a table's list at the place just written gives what was written, and elsewhere what was there. -/
theorem lookup_place {α : Type} (l : List (Nat × α)) (i j : Nat) (x : α) :
    lookup (place l i x) j = if j = i then some x else lookup l j := by
  induction l with
  | nil => simp only [place, lookup]
  | cons e rest ih =>
    obtain ⟨k, y⟩ := e
    simp only [place]
    split
    · simp only [lookup]
    · split
      · rename_i h; subst h; simp only [lookup]; split <;> rfl
      · simp only [lookup, ih]; split <;> rename_i h
        · subst h; rw [if_neg]; rename_i h1 h2; exact fun h => h2 h.symm
        · rfl

/-- Thing i of a table after thing j is written. -/
theorem Table.get_set {α : Type} (t : Table α) (d x : α) (i j : Nat) :
    (t.set i x).get d j = if j = i then x else t.get d j := by
  simp only [Table.get, Table.set, lookup_place]; split <;> rfl

/-- The thing just written is read. -/
@[simp] theorem Table.get_set_self {α : Type} (t : Table α) (d x : α) (i : Nat) : (t.set i x).get d i = x := by
  simp [Table.get_set]

/-- A thing not written is as before. -/
theorem Table.get_set_ne {α : Type} (t : Table α) (d x : α) {i j : Nat} (h : j ≠ i) :
    (t.set i x).get d j = t.get d j := by simp [Table.get_set, h]

/-- A thing that a table does not list is the thing that unlisted things are. -/
theorem Table.get_unlisted {α : Type} {t : Table α} {k : List Nat} (d : α) {i : Nat} (hk : t.keys = k) (hi : i ∉ k) : t.get d i = d := by
  have h : ∀ l : List (Nat × α), i ∉ l.map (·.1) → lookup l i = none := by
    intro l
    induction l with
    | nil => intro _; rfl
    | cons e l ih => intro hl; simp only [List.map_cons, List.mem_cons, not_or] at hl; simp [lookup, hl.1, ih hl.2]
  simp [Table.get, h t.entries (by rw [← hk] at hi; exact hi)]

/-- A thing of an empty table is the one an unlisted number stands for. -/
@[simp] theorem Table.get_empty {α : Type} (d : α) (i : Nat) : ({} : Table α).get d i = d := rfl

/-- A table changed throughout by a function that leaves an unlisted thing as it is reads as the function of what it
read. -/
theorem Table.get_map {α : Type} (t : Table α) (d : α) (f : Nat → α → α) (i : Nat) (h : f i d = d) :
    (t.map f).get d i = f i (t.get d i) := by
  have key : ∀ l : List (Nat × α), (lookup (l.map fun e => (e.1, f e.1 e.2)) i).getD d = f i ((lookup l i).getD d) := by
    intro l
    induction l with
    | nil => simp [lookup, h]
    | cons e rest ih =>
      obtain ⟨k, y⟩ := e
      simp only [List.map_cons, lookup]
      split
      · rename_i hk; subst hk; rfl
      · exact ih
  exact key t.entries

namespace Machine

/-! ### What is read back after an update -/

theorem State.setView_get (s : State) (v j : Nat) (x : View) :
    (s.setView v x).view j = if j = v then x else s.view j := Table.get_set ..

@[simp] theorem State.setView_self (s : State) (v : Nat) (x : View) : (s.setView v x).view v = x := by
  simp [State.setView_get]

theorem State.setSource_get (s : State) (i j : Nat) (x : Source) :
    (s.setSource i x).source j = if j = i then x else s.source j := Table.get_set ..

@[simp] theorem State.setSource_self (s : State) (i : Nat) (x : Source) : (s.setSource i x).source i = x := by
  simp [State.setSource_get]

theorem State.setTurret_get (s : State) (t j : Nat) (x : Turret) :
    (s.setTurret t x).turret j = if j = t then x else s.turret j := Table.get_set ..

@[simp] theorem State.setTurret_self (s : State) (t : Nat) (x : Turret) : (s.setTurret t x).turret t = x := by
  simp [State.setTurret_get]

theorem State.setSlot_get (s : State) (u j : Nat) (x : Slot) :
    (s.setSlot u x).slot j = if j = u then x else s.slot j := Table.get_set ..

@[simp] theorem State.setSlot_self (s : State) (u : Nat) (x : Slot) : (s.setSlot u x).slot u = x := by
  simp [State.setSlot_get]

theorem State.setLine_get (s : State) (n j : Nat) (x : Line) :
    (s.setLine n x).lineAt j = if j = n then x else s.lineAt j := Table.get_set ..

@[simp] theorem State.setLine_self (s : State) (n : Nat) (x : Line) : (s.setLine n x).lineAt n = x := by
  simp [State.setLine_get]

theorem State.setOccupancy_get (s : State) (h j : Nat) (x : Occupancy) :
    (s.setOccupancy h x).occupancy j = if j = h then x else s.occupancy j := Table.get_set ..

@[simp] theorem State.setOccupancy_self (s : State) (h : Nat) (x : Occupancy) : (s.setOccupancy h x).occupancy h = x := by
  simp [State.setOccupancy_get]

theorem State.setProgram_get (s : State) (c j : Nat) (x : Program) :
    (s.setProgram c x).program j = if j = c then x else s.program j := Table.get_set ..

@[simp] theorem State.setProgram_self (s : State) (c : Nat) (x : Program) : (s.setProgram c x).program c = x := by
  simp [State.setProgram_get]

theorem State.setPlayer_get (s : State) (n j : Nat) (x : Player) :
    (s.setPlayer n x).player j = if j = n then x else s.player j := Table.get_set ..

@[simp] theorem State.setPlayer_self (s : State) (n : Nat) (x : Player) : (s.setPlayer n x).player n = x := by
  simp [State.setPlayer_get]

theorem State.setGroup_get (s : State) (g j : Nat) (x : Group) :
    (s.setGroup g x).groupAt j = if j = g then x else s.groupAt j := Table.get_set ..

@[simp] theorem State.setGroup_self (s : State) (g : Nat) (x : Group) : (s.setGroup g x).groupAt g = x := by
  simp [State.setGroup_get]

theorem State.setChannel_get (s : State) (c j : Nat) (x : Channel) :
    (s.setChannel c x).channel j = if j = c then x else s.channel j := Table.get_set ..

@[simp] theorem State.setChannel_self (s : State) (c : Nat) (x : Channel) : (s.setChannel c x).channel c = x := by
  simp [State.setChannel_get]

theorem State.setRing_get (s : State) (k j : Nat) (x : Ring) :
    (s.setRing k x).noticeRing j = if j = k then x else s.noticeRing j := Table.get_set ..

@[simp] theorem State.setRing_self (s : State) (k : Nat) (x : Ring) : (s.setRing k x).noticeRing k = x := by
  simp [State.setRing_get]

theorem State.setQueue_get (s : State) (m j : Nat) (x : List Entry) :
    (s.setQueue m x).queue j = if j = m then x else s.queue j := Table.get_set ..

@[simp] theorem State.setQueue_self (s : State) (m : Nat) (x : List Entry) : (s.setQueue m x).queue m = x := by
  simp [State.setQueue_get]

/-! ### What an update leaves -/

@[simp] theorem State.setView_frame (s : State) (v : Nat) (x : View) :
    (s.setView v x).src = { s.src with views := s.src.views.set v x } ∧ (s.setView v x).mix = s.mix ∧
    (s.setView v x).line = s.line ∧ (s.setView v x).ring = s.ring ∧ (s.setView v x).group = s.group ∧
    (s.setView v x).recorder = s.recorder ∧ (s.setView v x).path = s.path ∧ (s.setView v x).plan = s.plan ∧
    (s.setView v x).notice = s.notice ∧ (s.setView v x).mem = s.mem ∧ (s.setView v x).pending = s.pending :=
  ⟨rfl, rfl, rfl, rfl, rfl, rfl, rfl, rfl, rfl, rfl, rfl⟩

@[simp] theorem State.setSource_frame (s : State) (i : Nat) (x : Source) :
    (s.setSource i x).src = { s.src with sources := s.src.sources.set i x } ∧ (s.setSource i x).mix = s.mix ∧
    (s.setSource i x).line = s.line ∧ (s.setSource i x).ring = s.ring ∧ (s.setSource i x).group = s.group ∧
    (s.setSource i x).recorder = s.recorder ∧ (s.setSource i x).path = s.path ∧
    (s.setSource i x).plan = s.plan ∧ (s.setSource i x).notice = s.notice ∧ (s.setSource i x).mem = s.mem ∧
    (s.setSource i x).pending = s.pending :=
  ⟨rfl, rfl, rfl, rfl, rfl, rfl, rfl, rfl, rfl, rfl, rfl⟩

@[simp] theorem State.setTurret_frame (s : State) (t : Nat) (x : Turret) :
    (s.setTurret t x).src = { s.src with turrets := s.src.turrets.set t x } ∧ (s.setTurret t x).mix = s.mix ∧
    (s.setTurret t x).line = s.line ∧ (s.setTurret t x).ring = s.ring ∧ (s.setTurret t x).group = s.group ∧
    (s.setTurret t x).recorder = s.recorder ∧ (s.setTurret t x).path = s.path ∧
    (s.setTurret t x).plan = s.plan ∧ (s.setTurret t x).notice = s.notice ∧ (s.setTurret t x).mem = s.mem ∧
    (s.setTurret t x).pending = s.pending :=
  ⟨rfl, rfl, rfl, rfl, rfl, rfl, rfl, rfl, rfl, rfl, rfl⟩

@[simp] theorem State.setSlot_frame (s : State) (u : Nat) (x : Slot) :
    (s.setSlot u x).src = s.src ∧ (s.setSlot u x).mix = { s.mix with slots := s.mix.slots.set u x } ∧
    (s.setSlot u x).line = s.line ∧ (s.setSlot u x).ring = s.ring ∧ (s.setSlot u x).group = s.group ∧
    (s.setSlot u x).recorder = s.recorder ∧ (s.setSlot u x).path = s.path ∧ (s.setSlot u x).plan = s.plan ∧
    (s.setSlot u x).notice = s.notice ∧ (s.setSlot u x).mem = s.mem ∧ (s.setSlot u x).pending = s.pending :=
  ⟨rfl, rfl, rfl, rfl, rfl, rfl, rfl, rfl, rfl, rfl, rfl⟩

@[simp] theorem State.setLine_frame (s : State) (n : Nat) (x : Line) :
    (s.setLine n x).src = s.src ∧ (s.setLine n x).mix = s.mix ∧
    (s.setLine n x).line = { s.line with lines := s.line.lines.set n x } ∧ (s.setLine n x).ring = s.ring ∧
    (s.setLine n x).group = s.group ∧ (s.setLine n x).recorder = s.recorder ∧ (s.setLine n x).path = s.path ∧
    (s.setLine n x).plan = s.plan ∧ (s.setLine n x).notice = s.notice ∧ (s.setLine n x).mem = s.mem ∧
    (s.setLine n x).pending = s.pending :=
  ⟨rfl, rfl, rfl, rfl, rfl, rfl, rfl, rfl, rfl, rfl, rfl⟩

@[simp] theorem State.setOccupancy_frame (s : State) (h : Nat) (x : Occupancy) :
    (s.setOccupancy h x).src = s.src ∧ (s.setOccupancy h x).mix = s.mix ∧
    (s.setOccupancy h x).line = { s.line with occupancy := s.line.occupancy.set h x } ∧
    (s.setOccupancy h x).ring = s.ring ∧ (s.setOccupancy h x).group = s.group ∧
    (s.setOccupancy h x).recorder = s.recorder ∧ (s.setOccupancy h x).path = s.path ∧
    (s.setOccupancy h x).plan = s.plan ∧ (s.setOccupancy h x).notice = s.notice ∧
    (s.setOccupancy h x).mem = s.mem ∧ (s.setOccupancy h x).pending = s.pending :=
  ⟨rfl, rfl, rfl, rfl, rfl, rfl, rfl, rfl, rfl, rfl, rfl⟩

@[simp] theorem State.setProgram_frame (s : State) (c : Nat) (x : Program) :
    (s.setProgram c x).src = s.src ∧ (s.setProgram c x).mix = s.mix ∧ (s.setProgram c x).line = s.line ∧
    (s.setProgram c x).ring = { s.ring with programs := s.ring.programs.set c x } ∧
    (s.setProgram c x).group = s.group ∧ (s.setProgram c x).recorder = s.recorder ∧
    (s.setProgram c x).path = s.path ∧ (s.setProgram c x).plan = s.plan ∧ (s.setProgram c x).notice = s.notice ∧
    (s.setProgram c x).mem = s.mem ∧ (s.setProgram c x).pending = s.pending :=
  ⟨rfl, rfl, rfl, rfl, rfl, rfl, rfl, rfl, rfl, rfl, rfl⟩

@[simp] theorem State.setPlayer_frame (s : State) (n : Nat) (x : Player) :
    (s.setPlayer n x).src = s.src ∧ (s.setPlayer n x).mix = s.mix ∧ (s.setPlayer n x).line = s.line ∧
    (s.setPlayer n x).ring = { s.ring with players := s.ring.players.set n x } ∧
    (s.setPlayer n x).group = s.group ∧ (s.setPlayer n x).recorder = s.recorder ∧
    (s.setPlayer n x).path = s.path ∧ (s.setPlayer n x).plan = s.plan ∧ (s.setPlayer n x).notice = s.notice ∧
    (s.setPlayer n x).mem = s.mem ∧ (s.setPlayer n x).pending = s.pending :=
  ⟨rfl, rfl, rfl, rfl, rfl, rfl, rfl, rfl, rfl, rfl, rfl⟩

@[simp] theorem State.setGroup_frame (s : State) (g : Nat) (x : Group) :
    (s.setGroup g x).src = s.src ∧ (s.setGroup g x).mix = s.mix ∧ (s.setGroup g x).line = s.line ∧
    (s.setGroup g x).ring = s.ring ∧
    (s.setGroup g x).group = { s.group with groups := s.group.groups.set g x } ∧
    (s.setGroup g x).recorder = s.recorder ∧ (s.setGroup g x).path = s.path ∧ (s.setGroup g x).plan = s.plan ∧
    (s.setGroup g x).notice = s.notice ∧ (s.setGroup g x).mem = s.mem ∧ (s.setGroup g x).pending = s.pending :=
  ⟨rfl, rfl, rfl, rfl, rfl, rfl, rfl, rfl, rfl, rfl, rfl⟩

@[simp] theorem State.setChannel_frame (s : State) (c : Nat) (x : Channel) :
    (s.setChannel c x).src = s.src ∧ (s.setChannel c x).mix = s.mix ∧ (s.setChannel c x).line = s.line ∧
    (s.setChannel c x).ring = s.ring ∧ (s.setChannel c x).group = s.group ∧
    (s.setChannel c x).recorder = { s.recorder with channels := s.recorder.channels.set c x } ∧
    (s.setChannel c x).path = s.path ∧ (s.setChannel c x).plan = s.plan ∧ (s.setChannel c x).notice = s.notice ∧
    (s.setChannel c x).mem = s.mem ∧ (s.setChannel c x).pending = s.pending :=
  ⟨rfl, rfl, rfl, rfl, rfl, rfl, rfl, rfl, rfl, rfl, rfl⟩

@[simp] theorem State.setRing_frame (s : State) (k : Nat) (x : Ring) :
    (s.setRing k x).src = s.src ∧ (s.setRing k x).mix = s.mix ∧ (s.setRing k x).line = s.line ∧
    (s.setRing k x).ring = s.ring ∧ (s.setRing k x).group = s.group ∧ (s.setRing k x).recorder = s.recorder ∧
    (s.setRing k x).path = s.path ∧ (s.setRing k x).plan = s.plan ∧
    (s.setRing k x).notice = { s.notice with rings := s.notice.rings.set k x } ∧ (s.setRing k x).mem = s.mem ∧
    (s.setRing k x).pending = s.pending :=
  ⟨rfl, rfl, rfl, rfl, rfl, rfl, rfl, rfl, rfl, rfl, rfl⟩

@[simp] theorem State.setQueue_frame (s : State) (m : Nat) (x : List Entry) :
    (s.setQueue m x).src = s.src ∧ (s.setQueue m x).mix = s.mix ∧ (s.setQueue m x).line = s.line ∧
    (s.setQueue m x).ring = s.ring ∧ (s.setQueue m x).group = s.group ∧ (s.setQueue m x).recorder = s.recorder ∧
    (s.setQueue m x).path = { s.path with queues := s.path.queues.set m x } ∧ (s.setQueue m x).plan = s.plan ∧
    (s.setQueue m x).notice = s.notice ∧ (s.setQueue m x).mem = s.mem ∧ (s.setQueue m x).pending = s.pending :=
  ⟨rfl, rfl, rfl, rfl, rfl, rfl, rfl, rfl, rfl, rfl, rfl⟩

end Machine

end Sys2Proof
end

