-- ==== Sys2Proof/Laws/Port.lean ====
section
/-!
SUPPORT. The frames of the operations of the two ports of the path switch (Machine/Port.lean) and of the mix engine
(Machine/Mix.lean). Each lemma says which parts of the state an operation leaves as they were, so that no later proof unfolds it for
that.
-/

namespace Sys2Proof.Machine

@[simp] theorem State.returnKnown_frame (s : State) (m : Nat) :
    (s.returnKnown m).src = s.src ∧ (s.returnKnown m).mix = s.mix ∧ (s.returnKnown m).line = s.line ∧
    (s.returnKnown m).ring = s.ring ∧ (s.returnKnown m).group = s.group ∧
    (s.returnKnown m).recorder = s.recorder ∧ (s.returnKnown m).path.base = s.path.base ∧
    (s.returnKnown m).path.decodeEn = s.path.decodeEn ∧
    (s.returnKnown m).path.resetAsserted = s.path.resetAsserted ∧
    (s.returnKnown m).path.partialWrites = s.path.partialWrites ∧
    (s.returnKnown m).path.memoryFaults = s.path.memoryFaults ∧
    (s.returnKnown m).path.faultMark = s.path.faultMark ∧ (s.returnKnown m).path.ownWait = s.path.ownWait ∧
    (s.returnKnown m).path.fwdWait = s.path.fwdWait ∧ (s.returnKnown m).path.presented = s.path.presented ∧
    (s.returnKnown m).path.lastOwn = s.path.lastOwn ∧ (s.returnKnown m).path.nextId = s.path.nextId ∧
    (s.returnKnown m).plan = s.plan ∧ (s.returnKnown m).notice = s.notice ∧ (s.returnKnown m).mem = s.mem ∧
    (s.returnKnown m).pending = s.pending := by
  simp [State.returnKnown]

@[simp] theorem State.appendEntry_frame (s : State) (m : Nat) (e : Entry) :
    (s.appendEntry m e).src = s.src ∧ (s.appendEntry m e).mix = s.mix ∧ (s.appendEntry m e).line = s.line ∧
    (s.appendEntry m e).ring = s.ring ∧ (s.appendEntry m e).group = s.group ∧
    (s.appendEntry m e).recorder = s.recorder ∧ (s.appendEntry m e).path.base = s.path.base ∧
    (s.appendEntry m e).path.decodeEn = s.path.decodeEn ∧
    (s.appendEntry m e).path.resetAsserted = s.path.resetAsserted ∧
    (s.appendEntry m e).path.partialWrites = s.path.partialWrites ∧
    (s.appendEntry m e).path.memoryFaults = s.path.memoryFaults ∧
    (s.appendEntry m e).path.faultMark = s.path.faultMark ∧ (s.appendEntry m e).path.ownWait = s.path.ownWait ∧
    (s.appendEntry m e).path.fwdWait = s.path.fwdWait ∧ (s.appendEntry m e).path.presented = s.path.presented ∧
    (s.appendEntry m e).path.lastOwn = s.path.lastOwn ∧ (s.appendEntry m e).path.nextId = s.path.nextId ∧
    (s.appendEntry m e).plan = s.plan ∧ (s.appendEntry m e).notice = s.notice ∧
    (s.appendEntry m e).mem = s.mem ∧ (s.appendEntry m e).pending = s.pending := by
  simp [State.appendEntry]

@[simp] theorem State.answerEntry_frame (s : State) (m id : Nat) (r : Option Response) :
    (s.answerEntry m id r).src = s.src ∧ (s.answerEntry m id r).mix = s.mix ∧
    (s.answerEntry m id r).line = s.line ∧ (s.answerEntry m id r).ring = s.ring ∧
    (s.answerEntry m id r).group = s.group ∧ (s.answerEntry m id r).recorder = s.recorder ∧
    (s.answerEntry m id r).path.base = s.path.base ∧ (s.answerEntry m id r).path.decodeEn = s.path.decodeEn ∧
    (s.answerEntry m id r).path.resetAsserted = s.path.resetAsserted ∧
    (s.answerEntry m id r).path.partialWrites = s.path.partialWrites ∧
    (s.answerEntry m id r).path.memoryFaults = s.path.memoryFaults ∧
    (s.answerEntry m id r).path.faultMark = s.path.faultMark ∧
    (s.answerEntry m id r).path.ownWait = s.path.ownWait ∧
    (s.answerEntry m id r).path.fwdWait = s.path.fwdWait ∧
    (s.answerEntry m id r).path.presented = s.path.presented ∧
    (s.answerEntry m id r).path.lastOwn = s.path.lastOwn ∧ (s.answerEntry m id r).path.nextId = s.path.nextId ∧
    (s.answerEntry m id r).plan = s.plan ∧ (s.answerEntry m id r).notice = s.notice ∧
    (s.answerEntry m id r).mem = s.mem ∧ (s.answerEntry m id r).pending = s.pending := by
  simp [State.answerEntry]

@[simp] theorem State.tick_frame (s : State) :
    (s.tick).src = s.src ∧ (s.tick).mix = s.mix ∧ (s.tick).line = s.line ∧ (s.tick).ring = s.ring ∧
    (s.tick).group = s.group ∧ (s.tick).recorder = s.recorder ∧ (s.tick).path.base = s.path.base ∧
    (s.tick).path.decodeEn = s.path.decodeEn ∧ (s.tick).path.resetAsserted = s.path.resetAsserted ∧
    (s.tick).path.queues = s.path.queues ∧ (s.tick).path.partialWrites = s.path.partialWrites ∧
    (s.tick).path.memoryFaults = s.path.memoryFaults ∧ (s.tick).path.faultMark = s.path.faultMark ∧
    (s.tick).path.ownWait = s.path.ownWait ∧ (s.tick).path.fwdWait = s.path.fwdWait ∧
    (s.tick).path.presented = s.path.presented ∧ (s.tick).path.lastOwn = s.path.lastOwn ∧
    (s.tick).path.returned = s.path.returned ∧ (s.tick).plan = s.plan ∧ (s.tick).notice = s.notice ∧
    (s.tick).mem = s.mem ∧ (s.tick).pending = s.pending := by
  simp [State.tick]

@[simp] theorem State.issue_frame (s : State) (o : Owner) (a : Nat) (op : BurstOp) :
    (s.issue o a op).src = s.src ∧ (s.issue o a op).mix = s.mix ∧ (s.issue o a op).line = s.line ∧
    (s.issue o a op).ring = s.ring ∧ (s.issue o a op).group = s.group ∧ (s.issue o a op).recorder = s.recorder ∧
    (s.issue o a op).path.base = s.path.base ∧ (s.issue o a op).path.decodeEn = s.path.decodeEn ∧
    (s.issue o a op).path.resetAsserted = s.path.resetAsserted ∧ (s.issue o a op).path.queues = s.path.queues ∧
    (s.issue o a op).path.partialWrites = s.path.partialWrites ∧
    (s.issue o a op).path.memoryFaults = s.path.memoryFaults ∧
    (s.issue o a op).path.faultMark = s.path.faultMark ∧ (s.issue o a op).path.fwdWait = s.path.fwdWait ∧
    (s.issue o a op).path.presented = s.path.presented ∧ (s.issue o a op).path.lastOwn = s.path.lastOwn ∧
    (s.issue o a op).path.returned = s.path.returned ∧ (s.issue o a op).plan = s.plan ∧
    (s.issue o a op).notice = s.notice ∧ (s.issue o a op).mem = s.mem ∧
    (s.issue o a op).pending = s.pending := by
  simp only [State.issue]; (repeat' split) <;> simp

@[simp] theorem State.issueWrite_frame (s : State) (o : Owner) (a : Nat) (d : Burst) :
    (s.issueWrite o a d).src = s.src ∧ (s.issueWrite o a d).mix = s.mix ∧ (s.issueWrite o a d).line = s.line ∧
    (s.issueWrite o a d).ring = s.ring ∧ (s.issueWrite o a d).group = s.group ∧
    (s.issueWrite o a d).recorder = s.recorder ∧ (s.issueWrite o a d).path.base = s.path.base ∧
    (s.issueWrite o a d).path.decodeEn = s.path.decodeEn ∧
    (s.issueWrite o a d).path.resetAsserted = s.path.resetAsserted ∧
    (s.issueWrite o a d).path.queues = s.path.queues ∧
    (s.issueWrite o a d).path.partialWrites = s.path.partialWrites ∧
    (s.issueWrite o a d).path.memoryFaults = s.path.memoryFaults ∧
    (s.issueWrite o a d).path.faultMark = s.path.faultMark ∧
    (s.issueWrite o a d).path.fwdWait = s.path.fwdWait ∧
    (s.issueWrite o a d).path.presented = s.path.presented ∧
    (s.issueWrite o a d).path.lastOwn = s.path.lastOwn ∧ (s.issueWrite o a d).path.returned = s.path.returned ∧
    (s.issueWrite o a d).plan = s.plan ∧ (s.issueWrite o a d).notice = s.notice ∧
    (s.issueWrite o a d).mem = s.mem ∧ (s.issueWrite o a d).pending = s.pending := by
  simp [State.issueWrite]

@[simp] theorem State.askEach_frame (s : State) (es : List Edit) :
    (s.askEach es).src = s.src ∧ (s.askEach es).line = s.line ∧ (s.askEach es).ring = s.ring ∧
    (s.askEach es).group = s.group ∧ (s.askEach es).recorder = s.recorder ∧ (s.askEach es).path = s.path ∧
    (s.askEach es).plan = s.plan ∧ (s.askEach es).notice = s.notice ∧ (s.askEach es).mem = s.mem ∧
    (s.askEach es).pending = s.pending := by
  simp [State.askEach]

@[simp] theorem State.cacheSelection_frame (s : State) (b : Nat) :
    (s.cacheSelection b).src = s.src ∧ (s.cacheSelection b).mix.slots = s.mix.slots ∧
    (s.cacheSelection b).mix.buses = s.mix.buses ∧ (s.cacheSelection b).mix.listens = s.mix.listens ∧
    (s.cacheSelection b).line = s.line ∧ (s.cacheSelection b).ring = s.ring ∧
    (s.cacheSelection b).group = s.group ∧ (s.cacheSelection b).recorder = s.recorder ∧
    (s.cacheSelection b).path = s.path ∧ (s.cacheSelection b).plan = s.plan ∧
    (s.cacheSelection b).notice = s.notice ∧ (s.cacheSelection b).mem = s.mem ∧
    (s.cacheSelection b).pending = s.pending := by
  simp only [State.cacheSelection]; (repeat' split) <;> simp

@[simp] theorem State.issueReads_frame (s : State) (job : Nat) (l : List (Nat × Nat)) :
    (s.issueReads job l).src = s.src ∧ (s.issueReads job l).mix = s.mix ∧ (s.issueReads job l).line = s.line ∧
    (s.issueReads job l).ring = s.ring ∧ (s.issueReads job l).group = s.group ∧
    (s.issueReads job l).recorder = s.recorder ∧ (s.issueReads job l).path.base = s.path.base ∧
    (s.issueReads job l).path.decodeEn = s.path.decodeEn ∧
    (s.issueReads job l).path.resetAsserted = s.path.resetAsserted ∧
    (s.issueReads job l).path.queues = s.path.queues ∧
    (s.issueReads job l).path.partialWrites = s.path.partialWrites ∧
    (s.issueReads job l).path.memoryFaults = s.path.memoryFaults ∧
    (s.issueReads job l).path.faultMark = s.path.faultMark ∧
    (s.issueReads job l).path.fwdWait = s.path.fwdWait ∧
    (s.issueReads job l).path.presented = s.path.presented ∧
    (s.issueReads job l).path.lastOwn = s.path.lastOwn ∧ (s.issueReads job l).path.returned = s.path.returned ∧
    (s.issueReads job l).plan = s.plan ∧ (s.issueReads job l).notice = s.notice ∧
    (s.issueReads job l).mem = s.mem ∧ (s.issueReads job l).pending = s.pending := by
  induction l generalizing s with
  | nil => simp [State.issueReads]
  | cons x rest ih => simp [State.issueReads, ih]

@[simp] theorem State.startJob_frame (s : State) (w : Calc) :
    ((s.startJob w).1).src = s.src ∧ ((s.startJob w).1).mix = s.mix ∧ ((s.startJob w).1).line = s.line ∧
    ((s.startJob w).1).ring = s.ring ∧ ((s.startJob w).1).group = s.group ∧
    ((s.startJob w).1).recorder = s.recorder ∧ ((s.startJob w).1).path.base = s.path.base ∧
    ((s.startJob w).1).path.decodeEn = s.path.decodeEn ∧
    ((s.startJob w).1).path.resetAsserted = s.path.resetAsserted ∧
    ((s.startJob w).1).path.queues = s.path.queues ∧
    ((s.startJob w).1).path.partialWrites = s.path.partialWrites ∧
    ((s.startJob w).1).path.memoryFaults = s.path.memoryFaults ∧
    ((s.startJob w).1).path.faultMark = s.path.faultMark ∧ ((s.startJob w).1).path.fwdWait = s.path.fwdWait ∧
    ((s.startJob w).1).path.presented = s.path.presented ∧ ((s.startJob w).1).path.lastOwn = s.path.lastOwn ∧
    ((s.startJob w).1).path.returned = s.path.returned ∧ ((s.startJob w).1).plan = s.plan ∧
    ((s.startJob w).1).notice = s.notice ∧ ((s.startJob w).1).mem = s.mem ∧
    ((s.startJob w).1).pending = s.pending := by
  simp [State.startJob]

@[simp] theorem State.cacheTerms_frame (s : State) (l : List Term) :
    (s.cacheTerms l).src = s.src ∧ (s.cacheTerms l).mix.slots = s.mix.slots ∧
    (s.cacheTerms l).mix.buses = s.mix.buses ∧ (s.cacheTerms l).mix.listens = s.mix.listens ∧
    (s.cacheTerms l).line = s.line ∧ (s.cacheTerms l).ring = s.ring ∧ (s.cacheTerms l).group = s.group ∧
    (s.cacheTerms l).recorder = s.recorder ∧ (s.cacheTerms l).path = s.path ∧ (s.cacheTerms l).plan = s.plan ∧
    (s.cacheTerms l).notice = s.notice ∧ (s.cacheTerms l).mem = s.mem ∧
    (s.cacheTerms l).pending = s.pending := by
  induction l generalizing s with
  | nil => simp [State.cacheTerms]
  | cons x rest ih => simp only [State.cacheTerms]; (repeat' split) <;> simp [ih]

@[simp] theorem State.cacheSlot_frame (s : State) (u : Nat) :
    (s.cacheSlot u).src = s.src ∧ (s.cacheSlot u).mix.slots = s.mix.slots ∧
    (s.cacheSlot u).mix.buses = s.mix.buses ∧ (s.cacheSlot u).mix.listens = s.mix.listens ∧
    (s.cacheSlot u).line = s.line ∧ (s.cacheSlot u).ring = s.ring ∧ (s.cacheSlot u).group = s.group ∧
    (s.cacheSlot u).recorder = s.recorder ∧ (s.cacheSlot u).path = s.path ∧ (s.cacheSlot u).plan = s.plan ∧
    (s.cacheSlot u).notice = s.notice ∧ (s.cacheSlot u).mem = s.mem ∧ (s.cacheSlot u).pending = s.pending := by
  simp only [State.cacheSlot]; (repeat' split) <;> simp

end Sys2Proof.Machine
end

