-- ==== Sys2Proof/Laws/NoticeFrames.lean ====
section
/-!
SUPPORT. The frames of the notice unit and of the channel pool (Machine/NoticeUnit.lean). Each lemma says which parts of the state an
operation leaves as they were, so that no later proof unfolds it for that.
-/

namespace Sys2Proof.Machine

@[simp] theorem State.writeNotice_frame (s : State) (k : Nat) (n : Notice) :
    (s.writeNotice k n).src = s.src ∧ (s.writeNotice k n).mix = s.mix ∧ (s.writeNotice k n).line = s.line ∧
    (s.writeNotice k n).ring = s.ring ∧ (s.writeNotice k n).group = s.group ∧
    (s.writeNotice k n).recorder = s.recorder ∧ (s.writeNotice k n).path.base = s.path.base ∧
    (s.writeNotice k n).path.decodeEn = s.path.decodeEn ∧
    (s.writeNotice k n).path.resetAsserted = s.path.resetAsserted ∧
    (s.writeNotice k n).path.queues = s.path.queues ∧
    (s.writeNotice k n).path.partialWrites = s.path.partialWrites ∧
    (s.writeNotice k n).path.memoryFaults = s.path.memoryFaults ∧
    (s.writeNotice k n).path.faultMark = s.path.faultMark ∧ (s.writeNotice k n).path.fwdWait = s.path.fwdWait ∧
    (s.writeNotice k n).path.presented = s.path.presented ∧ (s.writeNotice k n).path.lastOwn = s.path.lastOwn ∧
    (s.writeNotice k n).path.returned = s.path.returned ∧ (s.writeNotice k n).plan = s.plan ∧
    (s.writeNotice k n).notice.imagePending = s.notice.imagePending ∧
    (s.writeNotice k n).notice.imageDeferred = s.notice.imageDeferred ∧
    (s.writeNotice k n).notice.image = s.notice.image ∧ (s.writeNotice k n).mem = s.mem ∧
    (s.writeNotice k n).pending = s.pending := by
  simp [State.writeNotice]

@[simp] theorem State.discardNotice_frame (s : State) (k : Nat) :
    (s.discardNotice k).src = s.src ∧ (s.discardNotice k).mix = s.mix ∧ (s.discardNotice k).line = s.line ∧
    (s.discardNotice k).ring = s.ring ∧ (s.discardNotice k).group = s.group ∧
    (s.discardNotice k).recorder = s.recorder ∧ (s.discardNotice k).path = s.path ∧
    (s.discardNotice k).plan = s.plan ∧ (s.discardNotice k).notice.imagePending = s.notice.imagePending ∧
    (s.discardNotice k).notice.imageDeferred = s.notice.imageDeferred ∧
    (s.discardNotice k).notice.image = s.notice.image ∧ (s.discardNotice k).mem = s.mem ∧
    (s.discardNotice k).pending = s.pending := by
  simp [State.discardNotice]

@[simp] theorem State.clearMark_frame (s : State) (k : Nat) :
    (s.clearMark k).src = s.src ∧ (s.clearMark k).mix = s.mix ∧ (s.clearMark k).line = s.line ∧
    (s.clearMark k).ring = s.ring ∧ (s.clearMark k).group = s.group ∧ (s.clearMark k).recorder = s.recorder ∧
    (s.clearMark k).path = s.path ∧ (s.clearMark k).plan = s.plan ∧
    (s.clearMark k).notice.imagePending = s.notice.imagePending ∧
    (s.clearMark k).notice.imageDeferred = s.notice.imageDeferred ∧
    (s.clearMark k).notice.image = s.notice.image ∧ (s.clearMark k).mem = s.mem ∧
    (s.clearMark k).pending = s.pending := by
  simp [State.clearMark]

@[simp] theorem State.handOnTo_frame (s : State) (k : Nat) (n : Notice) :
    (s.handOnTo k n).src = s.src ∧ (s.handOnTo k n).mix = s.mix ∧ (s.handOnTo k n).line = s.line ∧
    (s.handOnTo k n).ring = s.ring ∧ (s.handOnTo k n).group = s.group ∧ (s.handOnTo k n).recorder = s.recorder ∧
    (s.handOnTo k n).path.base = s.path.base ∧ (s.handOnTo k n).path.decodeEn = s.path.decodeEn ∧
    (s.handOnTo k n).path.resetAsserted = s.path.resetAsserted ∧ (s.handOnTo k n).path.queues = s.path.queues ∧
    (s.handOnTo k n).path.partialWrites = s.path.partialWrites ∧
    (s.handOnTo k n).path.memoryFaults = s.path.memoryFaults ∧
    (s.handOnTo k n).path.faultMark = s.path.faultMark ∧ (s.handOnTo k n).path.fwdWait = s.path.fwdWait ∧
    (s.handOnTo k n).path.presented = s.path.presented ∧ (s.handOnTo k n).path.lastOwn = s.path.lastOwn ∧
    (s.handOnTo k n).path.returned = s.path.returned ∧ (s.handOnTo k n).plan = s.plan ∧
    (s.handOnTo k n).notice.imagePending = s.notice.imagePending ∧
    (s.handOnTo k n).notice.imageDeferred = s.notice.imageDeferred ∧
    (s.handOnTo k n).notice.image = s.notice.image ∧ (s.handOnTo k n).mem = s.mem ∧
    (s.handOnTo k n).pending = s.pending := by
  simp only [State.handOnTo]; (repeat' split) <;> simp

@[simp] theorem State.handOn_frame (s : State) (n : Notice) :
    (s.handOn n).src = s.src ∧ (s.handOn n).mix = s.mix ∧ (s.handOn n).line = s.line ∧
    (s.handOn n).ring = s.ring ∧ (s.handOn n).group = s.group ∧ (s.handOn n).recorder = s.recorder ∧
    (s.handOn n).path.base = s.path.base ∧ (s.handOn n).path.decodeEn = s.path.decodeEn ∧
    (s.handOn n).path.resetAsserted = s.path.resetAsserted ∧ (s.handOn n).path.queues = s.path.queues ∧
    (s.handOn n).path.partialWrites = s.path.partialWrites ∧
    (s.handOn n).path.memoryFaults = s.path.memoryFaults ∧ (s.handOn n).path.faultMark = s.path.faultMark ∧
    (s.handOn n).path.fwdWait = s.path.fwdWait ∧ (s.handOn n).path.presented = s.path.presented ∧
    (s.handOn n).path.lastOwn = s.path.lastOwn ∧ (s.handOn n).path.returned = s.path.returned ∧
    (s.handOn n).plan = s.plan ∧ (s.handOn n).notice.imagePending = s.notice.imagePending ∧
    (s.handOn n).notice.imageDeferred = s.notice.imageDeferred ∧ (s.handOn n).notice.image = s.notice.image ∧
    (s.handOn n).mem = s.mem ∧ (s.handOn n).pending = s.pending := by
  simp [State.handOn]

@[simp] theorem State.handOnAll_frame (s : State) (l : List Notice) :
    (s.handOnAll l).src = s.src ∧ (s.handOnAll l).mix = s.mix ∧ (s.handOnAll l).line = s.line ∧
    (s.handOnAll l).ring = s.ring ∧ (s.handOnAll l).group = s.group ∧ (s.handOnAll l).recorder = s.recorder ∧
    (s.handOnAll l).path.base = s.path.base ∧ (s.handOnAll l).path.decodeEn = s.path.decodeEn ∧
    (s.handOnAll l).path.resetAsserted = s.path.resetAsserted ∧ (s.handOnAll l).path.queues = s.path.queues ∧
    (s.handOnAll l).path.partialWrites = s.path.partialWrites ∧
    (s.handOnAll l).path.memoryFaults = s.path.memoryFaults ∧
    (s.handOnAll l).path.faultMark = s.path.faultMark ∧ (s.handOnAll l).path.fwdWait = s.path.fwdWait ∧
    (s.handOnAll l).path.presented = s.path.presented ∧ (s.handOnAll l).path.lastOwn = s.path.lastOwn ∧
    (s.handOnAll l).path.returned = s.path.returned ∧ (s.handOnAll l).plan = s.plan ∧
    (s.handOnAll l).notice.imagePending = s.notice.imagePending ∧
    (s.handOnAll l).notice.imageDeferred = s.notice.imageDeferred ∧
    (s.handOnAll l).notice.image = s.notice.image ∧ (s.handOnAll l).mem = s.mem ∧
    (s.handOnAll l).pending = s.pending := by
  induction l generalizing s with
  | nil => simp [State.handOnAll]
  | cons x rest ih => simp [State.handOnAll, ih]

@[simp] theorem State.result_frame (s : State) (r : ReplyTo) (k : RequestKind) (c : Code) :
    (s.result r k c).src = s.src ∧ (s.result r k c).mix = s.mix ∧ (s.result r k c).line = s.line ∧
    (s.result r k c).ring = s.ring ∧ (s.result r k c).group = s.group ∧ (s.result r k c).recorder = s.recorder ∧
    (s.result r k c).path.base = s.path.base ∧ (s.result r k c).path.decodeEn = s.path.decodeEn ∧
    (s.result r k c).path.resetAsserted = s.path.resetAsserted ∧ (s.result r k c).path.queues = s.path.queues ∧
    (s.result r k c).path.partialWrites = s.path.partialWrites ∧
    (s.result r k c).path.memoryFaults = s.path.memoryFaults ∧
    (s.result r k c).path.faultMark = s.path.faultMark ∧ (s.result r k c).path.fwdWait = s.path.fwdWait ∧
    (s.result r k c).path.presented = s.path.presented ∧ (s.result r k c).path.lastOwn = s.path.lastOwn ∧
    (s.result r k c).path.returned = s.path.returned ∧ (s.result r k c).plan = s.plan ∧
    (s.result r k c).notice.imagePending = s.notice.imagePending ∧
    (s.result r k c).notice.imageDeferred = s.notice.imageDeferred ∧
    (s.result r k c).notice.image = s.notice.image ∧ (s.result r k c).mem = s.mem ∧
    (s.result r k c).pending = s.pending := by
  simp [State.result]

@[simp] theorem State.results_frame (s : State) (k : RequestKind) (l : List ReplyTo) :
    (s.results k l).src = s.src ∧ (s.results k l).mix = s.mix ∧ (s.results k l).line = s.line ∧
    (s.results k l).ring = s.ring ∧ (s.results k l).group = s.group ∧ (s.results k l).recorder = s.recorder ∧
    (s.results k l).path.base = s.path.base ∧ (s.results k l).path.decodeEn = s.path.decodeEn ∧
    (s.results k l).path.resetAsserted = s.path.resetAsserted ∧ (s.results k l).path.queues = s.path.queues ∧
    (s.results k l).path.partialWrites = s.path.partialWrites ∧
    (s.results k l).path.memoryFaults = s.path.memoryFaults ∧
    (s.results k l).path.faultMark = s.path.faultMark ∧ (s.results k l).path.fwdWait = s.path.fwdWait ∧
    (s.results k l).path.presented = s.path.presented ∧ (s.results k l).path.lastOwn = s.path.lastOwn ∧
    (s.results k l).path.returned = s.path.returned ∧ (s.results k l).plan = s.plan ∧
    (s.results k l).notice.imagePending = s.notice.imagePending ∧
    (s.results k l).notice.imageDeferred = s.notice.imageDeferred ∧
    (s.results k l).notice.image = s.notice.image ∧ (s.results k l).mem = s.mem ∧
    (s.results k l).pending = s.pending := by
  induction l generalizing s with
  | nil => simp [State.results]
  | cons x rest ih => simp [State.results, ih]

@[simp] theorem State.countFault_frame (s : State) (o : Owner) :
    (s.countFault o).src = s.src ∧ (s.countFault o).mix = s.mix ∧ (s.countFault o).line = s.line ∧
    (s.countFault o).ring = s.ring ∧ (s.countFault o).group = s.group ∧ (s.countFault o).recorder = s.recorder ∧
    (s.countFault o).path.base = s.path.base ∧ (s.countFault o).path.decodeEn = s.path.decodeEn ∧
    (s.countFault o).path.resetAsserted = s.path.resetAsserted ∧ (s.countFault o).path.queues = s.path.queues ∧
    (s.countFault o).path.partialWrites = s.path.partialWrites ∧
    (s.countFault o).path.fwdWait = s.path.fwdWait ∧ (s.countFault o).path.presented = s.path.presented ∧
    (s.countFault o).path.lastOwn = s.path.lastOwn ∧ (s.countFault o).path.returned = s.path.returned ∧
    (s.countFault o).plan = s.plan ∧ (s.countFault o).notice.imagePending = s.notice.imagePending ∧
    (s.countFault o).notice.imageDeferred = s.notice.imageDeferred ∧
    (s.countFault o).notice.image = s.notice.image ∧ (s.countFault o).mem = s.mem ∧
    (s.countFault o).pending = s.pending := by
  simp only [State.countFault]; (repeat' split) <;> simp

/-- A listed record without the mark that its channel has been freed. -/
def PendingRecord.core (r : PendingRecord) : PendingRecord := { r with freed := false }

@[simp] theorem PendingRecord.unbind_core (c : Nat) (r : PendingRecord) : (r.unbind c).core = r.core := by
  unfold PendingRecord.unbind; split <;> rfl

@[simp] theorem PendingRecord.map_unbind_core (c : Nat) (l : List PendingRecord) :
    (l.map (PendingRecord.unbind c)).map PendingRecord.core = l.map PendingRecord.core := by
  simp [Function.comp_def]

/-- A channel freed: nothing but the channels and the marks of the listed records changes. -/
@[simp] theorem State.freeUp_frame (s : State) (c : Nat) :
    (s.freeUp c).src = s.src ∧ (s.freeUp c).mix = s.mix ∧ (s.freeUp c).line = s.line ∧ (s.freeUp c).ring = s.ring ∧
    (s.freeUp c).group = s.group ∧
    (s.freeUp c).recorder =
      { s.recorder with
        channels := s.recorder.channels.set c {}, records := s.recorder.records.map (PendingRecord.unbind c) } ∧
    (s.freeUp c).path = s.path ∧ (s.freeUp c).plan = s.plan ∧ (s.freeUp c).notice = s.notice ∧
    (s.freeUp c).mem = s.mem ∧ (s.freeUp c).pending = s.pending := by
  simp [State.freeUp]

@[simp] theorem State.reportIdle_frame (s : State) (o : Obj) :
    (s.reportIdle o).src = s.src ∧ (s.reportIdle o).mix = s.mix ∧ (s.reportIdle o).line = s.line ∧
    (s.reportIdle o).ring = s.ring ∧ (s.reportIdle o).group = s.group ∧
    (s.reportIdle o).recorder.status = s.recorder.status ∧ (s.reportIdle o).recorder.cap = s.recorder.cap ∧
    (s.reportIdle o).recorder.producer = s.recorder.producer ∧
    (s.reportIdle o).recorder.consumer = s.recorder.consumer ∧
    (s.reportIdle o).recorder.seconds = s.recorder.seconds ∧
    (s.reportIdle o).recorder.frameInSecond = s.recorder.frameInSecond ∧
    (s.reportIdle o).recorder.fresh = s.recorder.fresh ∧ (s.reportIdle o).recorder.staged = s.recorder.staged ∧
    (s.reportIdle o).recorder.records.map PendingRecord.core = s.recorder.records.map PendingRecord.core ∧
    (s.reportIdle o).recorder.batches = s.recorder.batches ∧ (s.reportIdle o).path = s.path ∧
    (s.reportIdle o).plan = s.plan ∧ (s.reportIdle o).notice = s.notice ∧ (s.reportIdle o).mem = s.mem ∧
    (s.reportIdle o).pending = s.pending := by
  simp only [State.reportIdle]; (repeat' split) <;> simp

end Sys2Proof.Machine
end

