-- ==== Sys2Proof/Laws/RingFrames.lean ====
section
/-!
SUPPORT. The frames of the ring unit (Machine/RingUnit.lean). Each lemma says which parts of the state an
operation leaves as they were, so that no later proof unfolds it for that.
-/

namespace Sys2Proof.Machine

@[simp] theorem State.askRinger_frame (s : State) (n t : Nat) (c : Option Cause) :
    (s.askRinger n t c).src = s.src ∧ (s.askRinger n t c).line = s.line ∧
    (s.askRinger n t c).ring.programs = s.ring.programs ∧ (s.askRinger n t c).group = s.group ∧
    (s.askRinger n t c).recorder = s.recorder ∧ (s.askRinger n t c).path.base = s.path.base ∧
    (s.askRinger n t c).path.decodeEn = s.path.decodeEn ∧
    (s.askRinger n t c).path.resetAsserted = s.path.resetAsserted ∧
    (s.askRinger n t c).path.queues = s.path.queues ∧
    (s.askRinger n t c).path.partialWrites = s.path.partialWrites ∧
    (s.askRinger n t c).path.memoryFaults = s.path.memoryFaults ∧
    (s.askRinger n t c).path.faultMark = s.path.faultMark ∧ (s.askRinger n t c).path.fwdWait = s.path.fwdWait ∧
    (s.askRinger n t c).path.presented = s.path.presented ∧ (s.askRinger n t c).path.lastOwn = s.path.lastOwn ∧
    (s.askRinger n t c).path.returned = s.path.returned ∧ (s.askRinger n t c).plan = s.plan ∧
    (s.askRinger n t c).notice.imagePending = s.notice.imagePending ∧
    (s.askRinger n t c).notice.imageDeferred = s.notice.imageDeferred ∧
    (s.askRinger n t c).notice.image = s.notice.image ∧ (s.askRinger n t c).mem = s.mem ∧
    (s.askRinger n t c).pending = s.pending := by
  simp only [State.askRinger]; (repeat' split) <;> simp

@[simp] theorem State.askRingers_frame (s : State) (n : Nat) (c : Option Cause) (l : List Nat) :
    (s.askRingers n c l).src = s.src ∧ (s.askRingers n c l).line = s.line ∧
    (s.askRingers n c l).ring.programs = s.ring.programs ∧ (s.askRingers n c l).group = s.group ∧
    (s.askRingers n c l).recorder = s.recorder ∧ (s.askRingers n c l).path.base = s.path.base ∧
    (s.askRingers n c l).path.decodeEn = s.path.decodeEn ∧
    (s.askRingers n c l).path.resetAsserted = s.path.resetAsserted ∧
    (s.askRingers n c l).path.queues = s.path.queues ∧
    (s.askRingers n c l).path.partialWrites = s.path.partialWrites ∧
    (s.askRingers n c l).path.memoryFaults = s.path.memoryFaults ∧
    (s.askRingers n c l).path.faultMark = s.path.faultMark ∧
    (s.askRingers n c l).path.fwdWait = s.path.fwdWait ∧
    (s.askRingers n c l).path.presented = s.path.presented ∧
    (s.askRingers n c l).path.lastOwn = s.path.lastOwn ∧ (s.askRingers n c l).path.returned = s.path.returned ∧
    (s.askRingers n c l).plan = s.plan ∧ (s.askRingers n c l).notice.imagePending = s.notice.imagePending ∧
    (s.askRingers n c l).notice.imageDeferred = s.notice.imageDeferred ∧
    (s.askRingers n c l).notice.image = s.notice.image ∧ (s.askRingers n c l).mem = s.mem ∧
    (s.askRingers n c l).pending = s.pending := by
  induction l generalizing s with
  | nil => simp [State.askRingers]
  | cons x rest ih => simp [State.askRingers, ih]

@[simp] theorem State.startRing_frame (s : State) (n : Nat) (c : Cause) :
    (s.startRing n c).src = s.src ∧ (s.startRing n c).line = s.line ∧
    (s.startRing n c).ring.programs = s.ring.programs ∧ (s.startRing n c).group = s.group ∧
    (s.startRing n c).recorder = s.recorder ∧ (s.startRing n c).path.base = s.path.base ∧
    (s.startRing n c).path.decodeEn = s.path.decodeEn ∧
    (s.startRing n c).path.resetAsserted = s.path.resetAsserted ∧
    (s.startRing n c).path.queues = s.path.queues ∧
    (s.startRing n c).path.partialWrites = s.path.partialWrites ∧
    (s.startRing n c).path.memoryFaults = s.path.memoryFaults ∧
    (s.startRing n c).path.faultMark = s.path.faultMark ∧ (s.startRing n c).path.fwdWait = s.path.fwdWait ∧
    (s.startRing n c).path.presented = s.path.presented ∧ (s.startRing n c).path.lastOwn = s.path.lastOwn ∧
    (s.startRing n c).path.returned = s.path.returned ∧ (s.startRing n c).plan = s.plan ∧
    (s.startRing n c).notice.imagePending = s.notice.imagePending ∧
    (s.startRing n c).notice.imageDeferred = s.notice.imageDeferred ∧
    (s.startRing n c).notice.image = s.notice.image ∧ (s.startRing n c).mem = s.mem ∧
    (s.startRing n c).pending = s.pending := by
  simp [State.startRing]

@[simp] theorem State.stopRing_frame (s : State) (n : Nat) :
    (s.stopRing n).src = s.src ∧ (s.stopRing n).line = s.line ∧ (s.stopRing n).ring.programs = s.ring.programs ∧
    (s.stopRing n).group = s.group ∧ (s.stopRing n).recorder = s.recorder ∧ (s.stopRing n).path = s.path ∧
    (s.stopRing n).plan = s.plan ∧ (s.stopRing n).notice = s.notice ∧ (s.stopRing n).mem = s.mem ∧
    (s.stopRing n).pending = s.pending := by
  simp [State.stopRing]

@[simp] theorem State.dropRinger_frame (s : State) (t n : Nat) :
    (s.dropRinger t n).src = s.src ∧ (s.dropRinger t n).line = s.line ∧
    (s.dropRinger t n).ring.programs = s.ring.programs ∧ (s.dropRinger t n).group = s.group ∧
    (s.dropRinger t n).recorder = s.recorder ∧ (s.dropRinger t n).path = s.path ∧
    (s.dropRinger t n).plan = s.plan ∧ (s.dropRinger t n).notice = s.notice ∧ (s.dropRinger t n).mem = s.mem ∧
    (s.dropRinger t n).pending = s.pending := by
  simp [State.dropRinger]

@[simp] theorem State.dropRingers_frame (s : State) (t : Nat) (l : List Nat) :
    (s.dropRingers t l).src = s.src ∧ (s.dropRingers t l).line = s.line ∧
    (s.dropRingers t l).ring.programs = s.ring.programs ∧ (s.dropRingers t l).group = s.group ∧
    (s.dropRingers t l).recorder = s.recorder ∧ (s.dropRingers t l).path = s.path ∧
    (s.dropRingers t l).plan = s.plan ∧ (s.dropRingers t l).notice = s.notice ∧
    (s.dropRingers t l).mem = s.mem ∧ (s.dropRingers t l).pending = s.pending := by
  induction l generalizing s with
  | nil => simp [State.dropRingers]
  | cons x rest ih => simp only [State.dropRingers]; (repeat' split) <;> simp [ih]

@[simp] theorem State.returnRingers_frame (s : State) (t : Nat) (l : List Nat) :
    (s.returnRingers t l).src = s.src ∧ (s.returnRingers t l).line = s.line ∧
    (s.returnRingers t l).ring.programs = s.ring.programs ∧ (s.returnRingers t l).group = s.group ∧
    (s.returnRingers t l).recorder = s.recorder ∧ (s.returnRingers t l).path.base = s.path.base ∧
    (s.returnRingers t l).path.decodeEn = s.path.decodeEn ∧
    (s.returnRingers t l).path.resetAsserted = s.path.resetAsserted ∧
    (s.returnRingers t l).path.queues = s.path.queues ∧
    (s.returnRingers t l).path.partialWrites = s.path.partialWrites ∧
    (s.returnRingers t l).path.memoryFaults = s.path.memoryFaults ∧
    (s.returnRingers t l).path.faultMark = s.path.faultMark ∧
    (s.returnRingers t l).path.fwdWait = s.path.fwdWait ∧
    (s.returnRingers t l).path.presented = s.path.presented ∧
    (s.returnRingers t l).path.lastOwn = s.path.lastOwn ∧
    (s.returnRingers t l).path.returned = s.path.returned ∧ (s.returnRingers t l).plan = s.plan ∧
    (s.returnRingers t l).notice.imagePending = s.notice.imagePending ∧
    (s.returnRingers t l).notice.imageDeferred = s.notice.imageDeferred ∧
    (s.returnRingers t l).notice.image = s.notice.image ∧ (s.returnRingers t l).mem = s.mem ∧
    (s.returnRingers t l).pending = s.pending := by
  induction l generalizing s with
  | nil => simp [State.returnRingers]
  | cons x rest ih => simp only [State.returnRingers]; (repeat' split) <;> simp [ih]

@[simp] theorem State.applyProgram_frame (s : State) (c : Nat) (p : Program) :
    (s.applyProgram c p).src = s.src ∧ (s.applyProgram c p).mix = s.mix ∧ (s.applyProgram c p).line = s.line ∧
    (s.applyProgram c p).group = s.group ∧ (s.applyProgram c p).recorder = s.recorder ∧
    (s.applyProgram c p).path = s.path ∧ (s.applyProgram c p).plan = s.plan ∧
    (s.applyProgram c p).notice = s.notice ∧ (s.applyProgram c p).mem = s.mem ∧
    (s.applyProgram c p).pending = s.pending := by
  simp [State.applyProgram]

@[simp] theorem State.stepPlayers_frame (s : State) (l : List Nat) :
    (s.stepPlayers l).src = s.src ∧ (s.stepPlayers l).mix = s.mix ∧ (s.stepPlayers l).line = s.line ∧
    (s.stepPlayers l).ring.programs = s.ring.programs ∧ (s.stepPlayers l).group = s.group ∧
    (s.stepPlayers l).recorder = s.recorder ∧ (s.stepPlayers l).path = s.path ∧
    (s.stepPlayers l).plan = s.plan ∧ (s.stepPlayers l).notice = s.notice ∧ (s.stepPlayers l).mem = s.mem ∧
    (s.stepPlayers l).pending = s.pending := by
  simp [State.stepPlayers]

end Sys2Proof.Machine
end

