-- ==== Sys2Proof/Laws/LineFrames.lean ====
section
/-!
SUPPORT. The frames of the line controller (Machine/LineUnit.lean). Each lemma says which parts of the state an
operation leaves as they were, so that no later proof unfolds it for that.
-/

namespace Sys2Proof.Machine

@[simp] theorem State.writeOutbound_frame (s : State) (n : Nat) :
    (s.writeOutbound n).src = s.src ∧ (s.writeOutbound n).mix = s.mix ∧ (s.writeOutbound n).line = s.line ∧
    (s.writeOutbound n).ring = s.ring ∧ (s.writeOutbound n).group = s.group ∧
    (s.writeOutbound n).recorder = s.recorder ∧ (s.writeOutbound n).path.base = s.path.base ∧
    (s.writeOutbound n).path.decodeEn = s.path.decodeEn ∧
    (s.writeOutbound n).path.resetAsserted = s.path.resetAsserted ∧
    (s.writeOutbound n).path.queues = s.path.queues ∧
    (s.writeOutbound n).path.partialWrites = s.path.partialWrites ∧
    (s.writeOutbound n).path.memoryFaults = s.path.memoryFaults ∧
    (s.writeOutbound n).path.faultMark = s.path.faultMark ∧ (s.writeOutbound n).path.fwdWait = s.path.fwdWait ∧
    (s.writeOutbound n).path.presented = s.path.presented ∧ (s.writeOutbound n).path.lastOwn = s.path.lastOwn ∧
    (s.writeOutbound n).path.returned = s.path.returned ∧ (s.writeOutbound n).plan = s.plan ∧
    (s.writeOutbound n).notice = s.notice ∧ (s.writeOutbound n).mem = s.mem ∧
    (s.writeOutbound n).pending = s.pending := by
  simp [State.writeOutbound]

@[simp] theorem State.moveLine_frame (s : State) (n : Nat) (new : LineStatus) (c : Cause) (h : Option Nat) (k : Code) :
    (s.moveLine n new c h k).src = s.src ∧ (s.moveLine n new c h k).line.occupancy = s.line.occupancy ∧
    (s.moveLine n new c h k).ring.programs = s.ring.programs ∧ (s.moveLine n new c h k).group = s.group ∧
    (s.moveLine n new c h k).recorder.status = s.recorder.status ∧
    (s.moveLine n new c h k).recorder.cap = s.recorder.cap ∧
    (s.moveLine n new c h k).recorder.producer = s.recorder.producer ∧
    (s.moveLine n new c h k).recorder.consumer = s.recorder.consumer ∧
    (s.moveLine n new c h k).recorder.seconds = s.recorder.seconds ∧
    (s.moveLine n new c h k).recorder.frameInSecond = s.recorder.frameInSecond ∧
    (s.moveLine n new c h k).recorder.fresh = s.recorder.fresh ∧
    (s.moveLine n new c h k).recorder.staged = s.recorder.staged ∧
    (s.moveLine n new c h k).recorder.records.map PendingRecord.core = s.recorder.records.map PendingRecord.core ∧
    (s.moveLine n new c h k).recorder.batches = s.recorder.batches ∧
    (s.moveLine n new c h k).path.base = s.path.base ∧
    (s.moveLine n new c h k).path.decodeEn = s.path.decodeEn ∧
    (s.moveLine n new c h k).path.resetAsserted = s.path.resetAsserted ∧
    (s.moveLine n new c h k).path.queues = s.path.queues ∧
    (s.moveLine n new c h k).path.partialWrites = s.path.partialWrites ∧
    (s.moveLine n new c h k).path.memoryFaults = s.path.memoryFaults ∧
    (s.moveLine n new c h k).path.faultMark = s.path.faultMark ∧
    (s.moveLine n new c h k).path.fwdWait = s.path.fwdWait ∧
    (s.moveLine n new c h k).path.presented = s.path.presented ∧
    (s.moveLine n new c h k).path.lastOwn = s.path.lastOwn ∧
    (s.moveLine n new c h k).path.returned = s.path.returned ∧ (s.moveLine n new c h k).plan = s.plan ∧
    (s.moveLine n new c h k).notice.imagePending = s.notice.imagePending ∧
    (s.moveLine n new c h k).notice.imageDeferred = s.notice.imageDeferred ∧
    (s.moveLine n new c h k).notice.image = s.notice.image ∧ (s.moveLine n new c h k).mem = s.mem ∧
    (s.moveLine n new c h k).pending = s.pending := by
  simp only [State.moveLine]; (repeat' split) <;> simp

@[simp] theorem State.dropHold_frame (s : State) (n : Nat) :
    (s.dropHold n).src = s.src ∧ (s.dropHold n).line.occupancy = s.line.occupancy ∧
    (s.dropHold n).ring = s.ring ∧ (s.dropHold n).group = s.group ∧ (s.dropHold n).recorder = s.recorder ∧
    (s.dropHold n).path = s.path ∧ (s.dropHold n).plan = s.plan ∧ (s.dropHold n).notice = s.notice ∧
    (s.dropHold n).mem = s.mem ∧ (s.dropHold n).pending = s.pending := by
  simp [State.dropHold]

@[simp] theorem State.parkLine_frame (s : State) (n : Nat) (c : Cause) (h : Option Nat) :
    (s.parkLine n c h).src = s.src ∧ (s.parkLine n c h).line.occupancy = s.line.occupancy ∧
    (s.parkLine n c h).ring.programs = s.ring.programs ∧ (s.parkLine n c h).group = s.group ∧
    (s.parkLine n c h).recorder.status = s.recorder.status ∧ (s.parkLine n c h).recorder.cap = s.recorder.cap ∧
    (s.parkLine n c h).recorder.producer = s.recorder.producer ∧
    (s.parkLine n c h).recorder.consumer = s.recorder.consumer ∧
    (s.parkLine n c h).recorder.seconds = s.recorder.seconds ∧
    (s.parkLine n c h).recorder.frameInSecond = s.recorder.frameInSecond ∧
    (s.parkLine n c h).recorder.fresh = s.recorder.fresh ∧
    (s.parkLine n c h).recorder.staged = s.recorder.staged ∧
    (s.parkLine n c h).recorder.records.map PendingRecord.core = s.recorder.records.map PendingRecord.core ∧
    (s.parkLine n c h).recorder.batches = s.recorder.batches ∧ (s.parkLine n c h).path.base = s.path.base ∧
    (s.parkLine n c h).path.decodeEn = s.path.decodeEn ∧
    (s.parkLine n c h).path.resetAsserted = s.path.resetAsserted ∧
    (s.parkLine n c h).path.queues = s.path.queues ∧
    (s.parkLine n c h).path.partialWrites = s.path.partialWrites ∧
    (s.parkLine n c h).path.memoryFaults = s.path.memoryFaults ∧
    (s.parkLine n c h).path.faultMark = s.path.faultMark ∧ (s.parkLine n c h).path.fwdWait = s.path.fwdWait ∧
    (s.parkLine n c h).path.presented = s.path.presented ∧ (s.parkLine n c h).path.lastOwn = s.path.lastOwn ∧
    (s.parkLine n c h).path.returned = s.path.returned ∧ (s.parkLine n c h).plan = s.plan ∧
    (s.parkLine n c h).notice.imagePending = s.notice.imagePending ∧
    (s.parkLine n c h).notice.imageDeferred = s.notice.imageDeferred ∧
    (s.parkLine n c h).notice.image = s.notice.image ∧ (s.parkLine n c h).mem = s.mem ∧
    (s.parkLine n c h).pending = s.pending := by
  simp only [State.parkLine]; (repeat' split) <;> simp

@[simp] theorem State.handsetGone_frame (s : State) (n h : Nat) (c : Cause) :
    (s.handsetGone n h c).src = s.src ∧ (s.handsetGone n h c).line.occupancy = s.line.occupancy ∧
    (s.handsetGone n h c).ring.programs = s.ring.programs ∧ (s.handsetGone n h c).group = s.group ∧
    (s.handsetGone n h c).recorder.status = s.recorder.status ∧
    (s.handsetGone n h c).recorder.cap = s.recorder.cap ∧
    (s.handsetGone n h c).recorder.producer = s.recorder.producer ∧
    (s.handsetGone n h c).recorder.consumer = s.recorder.consumer ∧
    (s.handsetGone n h c).recorder.seconds = s.recorder.seconds ∧
    (s.handsetGone n h c).recorder.frameInSecond = s.recorder.frameInSecond ∧
    (s.handsetGone n h c).recorder.fresh = s.recorder.fresh ∧
    (s.handsetGone n h c).recorder.staged = s.recorder.staged ∧
    (s.handsetGone n h c).recorder.records.map PendingRecord.core = s.recorder.records.map PendingRecord.core ∧
    (s.handsetGone n h c).recorder.batches = s.recorder.batches ∧
    (s.handsetGone n h c).path.base = s.path.base ∧ (s.handsetGone n h c).path.decodeEn = s.path.decodeEn ∧
    (s.handsetGone n h c).path.resetAsserted = s.path.resetAsserted ∧
    (s.handsetGone n h c).path.queues = s.path.queues ∧
    (s.handsetGone n h c).path.partialWrites = s.path.partialWrites ∧
    (s.handsetGone n h c).path.memoryFaults = s.path.memoryFaults ∧
    (s.handsetGone n h c).path.faultMark = s.path.faultMark ∧
    (s.handsetGone n h c).path.fwdWait = s.path.fwdWait ∧
    (s.handsetGone n h c).path.presented = s.path.presented ∧
    (s.handsetGone n h c).path.lastOwn = s.path.lastOwn ∧
    (s.handsetGone n h c).path.returned = s.path.returned ∧ (s.handsetGone n h c).plan = s.plan ∧
    (s.handsetGone n h c).notice.imagePending = s.notice.imagePending ∧
    (s.handsetGone n h c).notice.imageDeferred = s.notice.imageDeferred ∧
    (s.handsetGone n h c).notice.image = s.notice.image ∧ (s.handsetGone n h c).mem = s.mem ∧
    (s.handsetGone n h c).pending = s.pending := by
  simp only [State.handsetGone]; (repeat' split) <;> simp

@[simp] theorem State.leaveLine_frame (s : State) (n h : Nat) (c : Cause) :
    (s.leaveLine n h c).src = s.src ∧ (s.leaveLine n h c).ring.programs = s.ring.programs ∧
    (s.leaveLine n h c).group = s.group ∧ (s.leaveLine n h c).recorder.status = s.recorder.status ∧
    (s.leaveLine n h c).recorder.cap = s.recorder.cap ∧
    (s.leaveLine n h c).recorder.producer = s.recorder.producer ∧
    (s.leaveLine n h c).recorder.consumer = s.recorder.consumer ∧
    (s.leaveLine n h c).recorder.seconds = s.recorder.seconds ∧
    (s.leaveLine n h c).recorder.frameInSecond = s.recorder.frameInSecond ∧
    (s.leaveLine n h c).recorder.fresh = s.recorder.fresh ∧
    (s.leaveLine n h c).recorder.staged = s.recorder.staged ∧
    (s.leaveLine n h c).recorder.records.map PendingRecord.core = s.recorder.records.map PendingRecord.core ∧
    (s.leaveLine n h c).recorder.batches = s.recorder.batches ∧ (s.leaveLine n h c).path.base = s.path.base ∧
    (s.leaveLine n h c).path.decodeEn = s.path.decodeEn ∧
    (s.leaveLine n h c).path.resetAsserted = s.path.resetAsserted ∧
    (s.leaveLine n h c).path.queues = s.path.queues ∧
    (s.leaveLine n h c).path.partialWrites = s.path.partialWrites ∧
    (s.leaveLine n h c).path.memoryFaults = s.path.memoryFaults ∧
    (s.leaveLine n h c).path.faultMark = s.path.faultMark ∧ (s.leaveLine n h c).path.fwdWait = s.path.fwdWait ∧
    (s.leaveLine n h c).path.presented = s.path.presented ∧ (s.leaveLine n h c).path.lastOwn = s.path.lastOwn ∧
    (s.leaveLine n h c).path.returned = s.path.returned ∧ (s.leaveLine n h c).plan = s.plan ∧
    (s.leaveLine n h c).notice.imagePending = s.notice.imagePending ∧
    (s.leaveLine n h c).notice.imageDeferred = s.notice.imageDeferred ∧
    (s.leaveLine n h c).notice.image = s.notice.image ∧ (s.leaveLine n h c).mem = s.mem ∧
    (s.leaveLine n h c).pending = s.pending := by
  simp [State.leaveLine]

@[simp] theorem State.faultHandsets_frame (s : State) (n : Nat) (l : List Nat) :
    (s.faultHandsets n l).src = s.src ∧ (s.faultHandsets n l).ring.programs = s.ring.programs ∧
    (s.faultHandsets n l).group = s.group ∧ (s.faultHandsets n l).recorder.status = s.recorder.status ∧
    (s.faultHandsets n l).recorder.cap = s.recorder.cap ∧
    (s.faultHandsets n l).recorder.producer = s.recorder.producer ∧
    (s.faultHandsets n l).recorder.consumer = s.recorder.consumer ∧
    (s.faultHandsets n l).recorder.seconds = s.recorder.seconds ∧
    (s.faultHandsets n l).recorder.frameInSecond = s.recorder.frameInSecond ∧
    (s.faultHandsets n l).recorder.fresh = s.recorder.fresh ∧
    (s.faultHandsets n l).recorder.staged = s.recorder.staged ∧
    (s.faultHandsets n l).recorder.records.map PendingRecord.core = s.recorder.records.map PendingRecord.core ∧
    (s.faultHandsets n l).recorder.batches = s.recorder.batches ∧
    (s.faultHandsets n l).path.base = s.path.base ∧ (s.faultHandsets n l).path.decodeEn = s.path.decodeEn ∧
    (s.faultHandsets n l).path.resetAsserted = s.path.resetAsserted ∧
    (s.faultHandsets n l).path.queues = s.path.queues ∧
    (s.faultHandsets n l).path.partialWrites = s.path.partialWrites ∧
    (s.faultHandsets n l).path.memoryFaults = s.path.memoryFaults ∧
    (s.faultHandsets n l).path.faultMark = s.path.faultMark ∧
    (s.faultHandsets n l).path.fwdWait = s.path.fwdWait ∧
    (s.faultHandsets n l).path.presented = s.path.presented ∧
    (s.faultHandsets n l).path.lastOwn = s.path.lastOwn ∧
    (s.faultHandsets n l).path.returned = s.path.returned ∧ (s.faultHandsets n l).plan = s.plan ∧
    (s.faultHandsets n l).notice.imagePending = s.notice.imagePending ∧
    (s.faultHandsets n l).notice.imageDeferred = s.notice.imageDeferred ∧
    (s.faultHandsets n l).notice.image = s.notice.image ∧ (s.faultHandsets n l).mem = s.mem ∧
    (s.faultHandsets n l).pending = s.pending := by
  induction l generalizing s with
  | nil => simp [State.faultHandsets]
  | cons x rest ih => simp [State.faultHandsets, ih]

@[simp] theorem State.farSignal_frame (s : State) (n : Nat) (c : Signal) :
    (s.farSignal n c).src = s.src ∧ (s.farSignal n c).ring.programs = s.ring.programs ∧
    (s.farSignal n c).group = s.group ∧ (s.farSignal n c).recorder.status = s.recorder.status ∧
    (s.farSignal n c).recorder.cap = s.recorder.cap ∧
    (s.farSignal n c).recorder.producer = s.recorder.producer ∧
    (s.farSignal n c).recorder.consumer = s.recorder.consumer ∧
    (s.farSignal n c).recorder.seconds = s.recorder.seconds ∧
    (s.farSignal n c).recorder.frameInSecond = s.recorder.frameInSecond ∧
    (s.farSignal n c).recorder.fresh = s.recorder.fresh ∧
    (s.farSignal n c).recorder.staged = s.recorder.staged ∧
    (s.farSignal n c).recorder.records.map PendingRecord.core = s.recorder.records.map PendingRecord.core ∧
    (s.farSignal n c).recorder.batches = s.recorder.batches ∧ (s.farSignal n c).path.base = s.path.base ∧
    (s.farSignal n c).path.decodeEn = s.path.decodeEn ∧
    (s.farSignal n c).path.resetAsserted = s.path.resetAsserted ∧
    (s.farSignal n c).path.queues = s.path.queues ∧
    (s.farSignal n c).path.partialWrites = s.path.partialWrites ∧
    (s.farSignal n c).path.memoryFaults = s.path.memoryFaults ∧
    (s.farSignal n c).path.faultMark = s.path.faultMark ∧ (s.farSignal n c).path.fwdWait = s.path.fwdWait ∧
    (s.farSignal n c).path.presented = s.path.presented ∧ (s.farSignal n c).path.lastOwn = s.path.lastOwn ∧
    (s.farSignal n c).path.returned = s.path.returned ∧ (s.farSignal n c).plan = s.plan ∧
    (s.farSignal n c).notice.imagePending = s.notice.imagePending ∧
    (s.farSignal n c).notice.imageDeferred = s.notice.imageDeferred ∧
    (s.farSignal n c).notice.image = s.notice.image ∧ (s.farSignal n c).mem = s.mem ∧
    (s.farSignal n c).pending = s.pending := by
  simp only [State.farSignal]; (repeat' split) <;> simp

@[simp] theorem State.takeInbound_frame (s : State) (n : Nat) (d : Burst) :
    (s.takeInbound n d).src = s.src ∧ (s.takeInbound n d).ring.programs = s.ring.programs ∧
    (s.takeInbound n d).group = s.group ∧ (s.takeInbound n d).recorder.status = s.recorder.status ∧
    (s.takeInbound n d).recorder.cap = s.recorder.cap ∧
    (s.takeInbound n d).recorder.producer = s.recorder.producer ∧
    (s.takeInbound n d).recorder.consumer = s.recorder.consumer ∧
    (s.takeInbound n d).recorder.seconds = s.recorder.seconds ∧
    (s.takeInbound n d).recorder.frameInSecond = s.recorder.frameInSecond ∧
    (s.takeInbound n d).recorder.fresh = s.recorder.fresh ∧
    (s.takeInbound n d).recorder.staged = s.recorder.staged ∧
    (s.takeInbound n d).recorder.records.map PendingRecord.core = s.recorder.records.map PendingRecord.core ∧
    (s.takeInbound n d).recorder.batches = s.recorder.batches ∧ (s.takeInbound n d).path.base = s.path.base ∧
    (s.takeInbound n d).path.decodeEn = s.path.decodeEn ∧
    (s.takeInbound n d).path.resetAsserted = s.path.resetAsserted ∧
    (s.takeInbound n d).path.queues = s.path.queues ∧
    (s.takeInbound n d).path.partialWrites = s.path.partialWrites ∧
    (s.takeInbound n d).path.memoryFaults = s.path.memoryFaults ∧
    (s.takeInbound n d).path.faultMark = s.path.faultMark ∧ (s.takeInbound n d).path.fwdWait = s.path.fwdWait ∧
    (s.takeInbound n d).path.presented = s.path.presented ∧ (s.takeInbound n d).path.lastOwn = s.path.lastOwn ∧
    (s.takeInbound n d).path.returned = s.path.returned ∧ (s.takeInbound n d).plan = s.plan ∧
    (s.takeInbound n d).notice.imagePending = s.notice.imagePending ∧
    (s.takeInbound n d).notice.imageDeferred = s.notice.imageDeferred ∧
    (s.takeInbound n d).notice.image = s.notice.image ∧ (s.takeInbound n d).mem = s.mem ∧
    (s.takeInbound n d).pending = s.pending := by
  simp only [State.takeInbound]; (repeat' split) <;> simp

@[simp] theorem State.joinLine_frame (s : State) (n h : Nat) :
    (s.joinLine n h).src = s.src ∧ (s.joinLine n h).ring.programs = s.ring.programs ∧
    (s.joinLine n h).group = s.group ∧ (s.joinLine n h).recorder.status = s.recorder.status ∧
    (s.joinLine n h).recorder.cap = s.recorder.cap ∧ (s.joinLine n h).recorder.producer = s.recorder.producer ∧
    (s.joinLine n h).recorder.consumer = s.recorder.consumer ∧
    (s.joinLine n h).recorder.seconds = s.recorder.seconds ∧
    (s.joinLine n h).recorder.frameInSecond = s.recorder.frameInSecond ∧
    (s.joinLine n h).recorder.fresh = s.recorder.fresh ∧ (s.joinLine n h).recorder.staged = s.recorder.staged ∧
    (s.joinLine n h).recorder.records.map PendingRecord.core = s.recorder.records.map PendingRecord.core ∧
    (s.joinLine n h).recorder.batches = s.recorder.batches ∧ (s.joinLine n h).path.base = s.path.base ∧
    (s.joinLine n h).path.decodeEn = s.path.decodeEn ∧
    (s.joinLine n h).path.resetAsserted = s.path.resetAsserted ∧ (s.joinLine n h).path.queues = s.path.queues ∧
    (s.joinLine n h).path.partialWrites = s.path.partialWrites ∧
    (s.joinLine n h).path.memoryFaults = s.path.memoryFaults ∧
    (s.joinLine n h).path.faultMark = s.path.faultMark ∧ (s.joinLine n h).path.fwdWait = s.path.fwdWait ∧
    (s.joinLine n h).path.presented = s.path.presented ∧ (s.joinLine n h).path.lastOwn = s.path.lastOwn ∧
    (s.joinLine n h).path.returned = s.path.returned ∧ (s.joinLine n h).plan = s.plan ∧
    (s.joinLine n h).notice.imagePending = s.notice.imagePending ∧
    (s.joinLine n h).notice.imageDeferred = s.notice.imageDeferred ∧
    (s.joinLine n h).notice.image = s.notice.image ∧ (s.joinLine n h).mem = s.mem ∧
    (s.joinLine n h).pending = s.pending := by
  simp only [State.joinLine]; (repeat' split) <;> simp

@[simp] theorem State.keyMove_frame (s : State) (n h : Nat) :
    (s.keyMove n h).src = s.src ∧ (s.keyMove n h).ring.programs = s.ring.programs ∧
    (s.keyMove n h).group = s.group ∧ (s.keyMove n h).recorder.status = s.recorder.status ∧
    (s.keyMove n h).recorder.cap = s.recorder.cap ∧ (s.keyMove n h).recorder.producer = s.recorder.producer ∧
    (s.keyMove n h).recorder.consumer = s.recorder.consumer ∧
    (s.keyMove n h).recorder.seconds = s.recorder.seconds ∧
    (s.keyMove n h).recorder.frameInSecond = s.recorder.frameInSecond ∧
    (s.keyMove n h).recorder.fresh = s.recorder.fresh ∧ (s.keyMove n h).recorder.staged = s.recorder.staged ∧
    (s.keyMove n h).recorder.records.map PendingRecord.core = s.recorder.records.map PendingRecord.core ∧
    (s.keyMove n h).recorder.batches = s.recorder.batches ∧ (s.keyMove n h).path.base = s.path.base ∧
    (s.keyMove n h).path.decodeEn = s.path.decodeEn ∧
    (s.keyMove n h).path.resetAsserted = s.path.resetAsserted ∧ (s.keyMove n h).path.queues = s.path.queues ∧
    (s.keyMove n h).path.partialWrites = s.path.partialWrites ∧
    (s.keyMove n h).path.memoryFaults = s.path.memoryFaults ∧
    (s.keyMove n h).path.faultMark = s.path.faultMark ∧ (s.keyMove n h).path.fwdWait = s.path.fwdWait ∧
    (s.keyMove n h).path.presented = s.path.presented ∧ (s.keyMove n h).path.lastOwn = s.path.lastOwn ∧
    (s.keyMove n h).path.returned = s.path.returned ∧ (s.keyMove n h).plan = s.plan ∧
    (s.keyMove n h).notice.imagePending = s.notice.imagePending ∧
    (s.keyMove n h).notice.imageDeferred = s.notice.imageDeferred ∧
    (s.keyMove n h).notice.image = s.notice.image ∧ (s.keyMove n h).mem = s.mem ∧
    (s.keyMove n h).pending = s.pending := by
  simp only [State.keyMove]; (repeat' split) <;> simp

@[simp] theorem State.lineRelease_frame (s : State) (t h n : Nat) :
    ((s.lineRelease t h n).1).src = s.src ∧ ((s.lineRelease t h n).1).ring.programs = s.ring.programs ∧
    ((s.lineRelease t h n).1).group = s.group ∧ ((s.lineRelease t h n).1).recorder.status = s.recorder.status ∧
    ((s.lineRelease t h n).1).recorder.cap = s.recorder.cap ∧
    ((s.lineRelease t h n).1).recorder.producer = s.recorder.producer ∧
    ((s.lineRelease t h n).1).recorder.consumer = s.recorder.consumer ∧
    ((s.lineRelease t h n).1).recorder.seconds = s.recorder.seconds ∧
    ((s.lineRelease t h n).1).recorder.frameInSecond = s.recorder.frameInSecond ∧
    ((s.lineRelease t h n).1).recorder.fresh = s.recorder.fresh ∧
    ((s.lineRelease t h n).1).recorder.staged = s.recorder.staged ∧
    ((s.lineRelease t h n).1).recorder.records.map PendingRecord.core = s.recorder.records.map PendingRecord.core ∧
    ((s.lineRelease t h n).1).recorder.batches = s.recorder.batches ∧
    ((s.lineRelease t h n).1).path.base = s.path.base ∧
    ((s.lineRelease t h n).1).path.decodeEn = s.path.decodeEn ∧
    ((s.lineRelease t h n).1).path.resetAsserted = s.path.resetAsserted ∧
    ((s.lineRelease t h n).1).path.queues = s.path.queues ∧
    ((s.lineRelease t h n).1).path.partialWrites = s.path.partialWrites ∧
    ((s.lineRelease t h n).1).path.memoryFaults = s.path.memoryFaults ∧
    ((s.lineRelease t h n).1).path.faultMark = s.path.faultMark ∧
    ((s.lineRelease t h n).1).path.fwdWait = s.path.fwdWait ∧
    ((s.lineRelease t h n).1).path.presented = s.path.presented ∧
    ((s.lineRelease t h n).1).path.lastOwn = s.path.lastOwn ∧
    ((s.lineRelease t h n).1).path.returned = s.path.returned ∧ ((s.lineRelease t h n).1).plan = s.plan ∧
    ((s.lineRelease t h n).1).notice.imagePending = s.notice.imagePending ∧
    ((s.lineRelease t h n).1).notice.imageDeferred = s.notice.imageDeferred ∧
    ((s.lineRelease t h n).1).notice.image = s.notice.image ∧ ((s.lineRelease t h n).1).mem = s.mem ∧
    ((s.lineRelease t h n).1).pending = s.pending := by
  simp only [State.lineRelease]; (repeat' split) <;> simp

@[simp] theorem State.holdLast_frame (s : State) (n h : Nat) :
    ((s.holdLast n h).1).src = s.src ∧ ((s.holdLast n h).1).ring.programs = s.ring.programs ∧
    ((s.holdLast n h).1).group = s.group ∧ ((s.holdLast n h).1).recorder.status = s.recorder.status ∧
    ((s.holdLast n h).1).recorder.cap = s.recorder.cap ∧
    ((s.holdLast n h).1).recorder.producer = s.recorder.producer ∧
    ((s.holdLast n h).1).recorder.consumer = s.recorder.consumer ∧
    ((s.holdLast n h).1).recorder.seconds = s.recorder.seconds ∧
    ((s.holdLast n h).1).recorder.frameInSecond = s.recorder.frameInSecond ∧
    ((s.holdLast n h).1).recorder.fresh = s.recorder.fresh ∧
    ((s.holdLast n h).1).recorder.staged = s.recorder.staged ∧
    ((s.holdLast n h).1).recorder.records.map PendingRecord.core = s.recorder.records.map PendingRecord.core ∧
    ((s.holdLast n h).1).recorder.batches = s.recorder.batches ∧ ((s.holdLast n h).1).path.base = s.path.base ∧
    ((s.holdLast n h).1).path.decodeEn = s.path.decodeEn ∧
    ((s.holdLast n h).1).path.resetAsserted = s.path.resetAsserted ∧
    ((s.holdLast n h).1).path.queues = s.path.queues ∧
    ((s.holdLast n h).1).path.partialWrites = s.path.partialWrites ∧
    ((s.holdLast n h).1).path.memoryFaults = s.path.memoryFaults ∧
    ((s.holdLast n h).1).path.faultMark = s.path.faultMark ∧
    ((s.holdLast n h).1).path.fwdWait = s.path.fwdWait ∧
    ((s.holdLast n h).1).path.presented = s.path.presented ∧
    ((s.holdLast n h).1).path.lastOwn = s.path.lastOwn ∧ ((s.holdLast n h).1).path.returned = s.path.returned ∧
    ((s.holdLast n h).1).plan = s.plan ∧ ((s.holdLast n h).1).notice.imagePending = s.notice.imagePending ∧
    ((s.holdLast n h).1).notice.imageDeferred = s.notice.imageDeferred ∧
    ((s.holdLast n h).1).notice.image = s.notice.image ∧ ((s.holdLast n h).1).mem = s.mem ∧
    ((s.holdLast n h).1).pending = s.pending := by
  simp only [State.holdLast]; (repeat' split) <;> simp

@[simp] theorem State.lineHold_frame (s : State) (t h n : Nat) :
    ((s.lineHold t h n).1).src = s.src ∧ ((s.lineHold t h n).1).ring.programs = s.ring.programs ∧
    ((s.lineHold t h n).1).group = s.group ∧ ((s.lineHold t h n).1).recorder.status = s.recorder.status ∧
    ((s.lineHold t h n).1).recorder.cap = s.recorder.cap ∧
    ((s.lineHold t h n).1).recorder.producer = s.recorder.producer ∧
    ((s.lineHold t h n).1).recorder.consumer = s.recorder.consumer ∧
    ((s.lineHold t h n).1).recorder.seconds = s.recorder.seconds ∧
    ((s.lineHold t h n).1).recorder.frameInSecond = s.recorder.frameInSecond ∧
    ((s.lineHold t h n).1).recorder.fresh = s.recorder.fresh ∧
    ((s.lineHold t h n).1).recorder.staged = s.recorder.staged ∧
    ((s.lineHold t h n).1).recorder.records.map PendingRecord.core = s.recorder.records.map PendingRecord.core ∧
    ((s.lineHold t h n).1).recorder.batches = s.recorder.batches ∧
    ((s.lineHold t h n).1).path.base = s.path.base ∧ ((s.lineHold t h n).1).path.decodeEn = s.path.decodeEn ∧
    ((s.lineHold t h n).1).path.resetAsserted = s.path.resetAsserted ∧
    ((s.lineHold t h n).1).path.queues = s.path.queues ∧
    ((s.lineHold t h n).1).path.partialWrites = s.path.partialWrites ∧
    ((s.lineHold t h n).1).path.memoryFaults = s.path.memoryFaults ∧
    ((s.lineHold t h n).1).path.faultMark = s.path.faultMark ∧
    ((s.lineHold t h n).1).path.fwdWait = s.path.fwdWait ∧
    ((s.lineHold t h n).1).path.presented = s.path.presented ∧
    ((s.lineHold t h n).1).path.lastOwn = s.path.lastOwn ∧
    ((s.lineHold t h n).1).path.returned = s.path.returned ∧ ((s.lineHold t h n).1).plan = s.plan ∧
    ((s.lineHold t h n).1).notice.imagePending = s.notice.imagePending ∧
    ((s.lineHold t h n).1).notice.imageDeferred = s.notice.imageDeferred ∧
    ((s.lineHold t h n).1).notice.image = s.notice.image ∧ ((s.lineHold t h n).1).mem = s.mem ∧
    ((s.lineHold t h n).1).pending = s.pending := by
  simp only [State.lineHold]; (repeat' split) <;> simp

@[simp] theorem State.loseHandset_frame (s : State) (h : Nat) :
    (s.loseHandset h).src = s.src ∧ (s.loseHandset h).ring.programs = s.ring.programs ∧
    (s.loseHandset h).group = s.group ∧ (s.loseHandset h).recorder.status = s.recorder.status ∧
    (s.loseHandset h).recorder.cap = s.recorder.cap ∧
    (s.loseHandset h).recorder.producer = s.recorder.producer ∧
    (s.loseHandset h).recorder.consumer = s.recorder.consumer ∧
    (s.loseHandset h).recorder.seconds = s.recorder.seconds ∧
    (s.loseHandset h).recorder.frameInSecond = s.recorder.frameInSecond ∧
    (s.loseHandset h).recorder.fresh = s.recorder.fresh ∧
    (s.loseHandset h).recorder.staged = s.recorder.staged ∧
    (s.loseHandset h).recorder.records.map PendingRecord.core = s.recorder.records.map PendingRecord.core ∧
    (s.loseHandset h).recorder.batches = s.recorder.batches ∧ (s.loseHandset h).path.base = s.path.base ∧
    (s.loseHandset h).path.decodeEn = s.path.decodeEn ∧
    (s.loseHandset h).path.resetAsserted = s.path.resetAsserted ∧
    (s.loseHandset h).path.queues = s.path.queues ∧
    (s.loseHandset h).path.partialWrites = s.path.partialWrites ∧
    (s.loseHandset h).path.memoryFaults = s.path.memoryFaults ∧
    (s.loseHandset h).path.faultMark = s.path.faultMark ∧ (s.loseHandset h).path.fwdWait = s.path.fwdWait ∧
    (s.loseHandset h).path.presented = s.path.presented ∧ (s.loseHandset h).path.lastOwn = s.path.lastOwn ∧
    (s.loseHandset h).path.returned = s.path.returned ∧ (s.loseHandset h).plan = s.plan ∧
    (s.loseHandset h).notice.imagePending = s.notice.imagePending ∧
    (s.loseHandset h).notice.imageDeferred = s.notice.imageDeferred ∧
    (s.loseHandset h).notice.image = s.notice.image ∧ (s.loseHandset h).mem = s.mem ∧
    (s.loseHandset h).pending = s.pending := by
  simp only [State.loseHandset]; (repeat' split) <;> simp

@[simp] theorem State.takeRingLimit_frame (s : State) (n : Nat) :
    (s.takeRingLimit n).src = s.src ∧ (s.takeRingLimit n).line.occupancy = s.line.occupancy ∧
    (s.takeRingLimit n).ring.programs = s.ring.programs ∧ (s.takeRingLimit n).group = s.group ∧
    (s.takeRingLimit n).recorder.status = s.recorder.status ∧
    (s.takeRingLimit n).recorder.cap = s.recorder.cap ∧
    (s.takeRingLimit n).recorder.producer = s.recorder.producer ∧
    (s.takeRingLimit n).recorder.consumer = s.recorder.consumer ∧
    (s.takeRingLimit n).recorder.seconds = s.recorder.seconds ∧
    (s.takeRingLimit n).recorder.frameInSecond = s.recorder.frameInSecond ∧
    (s.takeRingLimit n).recorder.fresh = s.recorder.fresh ∧
    (s.takeRingLimit n).recorder.staged = s.recorder.staged ∧
    (s.takeRingLimit n).recorder.records.map PendingRecord.core = s.recorder.records.map PendingRecord.core ∧
    (s.takeRingLimit n).recorder.batches = s.recorder.batches ∧ (s.takeRingLimit n).path.base = s.path.base ∧
    (s.takeRingLimit n).path.decodeEn = s.path.decodeEn ∧
    (s.takeRingLimit n).path.resetAsserted = s.path.resetAsserted ∧
    (s.takeRingLimit n).path.queues = s.path.queues ∧
    (s.takeRingLimit n).path.partialWrites = s.path.partialWrites ∧
    (s.takeRingLimit n).path.memoryFaults = s.path.memoryFaults ∧
    (s.takeRingLimit n).path.faultMark = s.path.faultMark ∧ (s.takeRingLimit n).path.fwdWait = s.path.fwdWait ∧
    (s.takeRingLimit n).path.presented = s.path.presented ∧ (s.takeRingLimit n).path.lastOwn = s.path.lastOwn ∧
    (s.takeRingLimit n).path.returned = s.path.returned ∧ (s.takeRingLimit n).plan = s.plan ∧
    (s.takeRingLimit n).notice.imagePending = s.notice.imagePending ∧
    (s.takeRingLimit n).notice.imageDeferred = s.notice.imageDeferred ∧
    (s.takeRingLimit n).notice.image = s.notice.image ∧ (s.takeRingLimit n).mem = s.mem ∧
    (s.takeRingLimit n).pending = s.pending := by
  simp only [State.takeRingLimit]; (repeat' split) <;> simp

@[simp] theorem State.takeReleaseTimeout_frame (s : State) (n : Nat) :
    (s.takeReleaseTimeout n).src = s.src ∧ (s.takeReleaseTimeout n).line.occupancy = s.line.occupancy ∧
    (s.takeReleaseTimeout n).ring.programs = s.ring.programs ∧ (s.takeReleaseTimeout n).group = s.group ∧
    (s.takeReleaseTimeout n).recorder.status = s.recorder.status ∧
    (s.takeReleaseTimeout n).recorder.cap = s.recorder.cap ∧
    (s.takeReleaseTimeout n).recorder.producer = s.recorder.producer ∧
    (s.takeReleaseTimeout n).recorder.consumer = s.recorder.consumer ∧
    (s.takeReleaseTimeout n).recorder.seconds = s.recorder.seconds ∧
    (s.takeReleaseTimeout n).recorder.frameInSecond = s.recorder.frameInSecond ∧
    (s.takeReleaseTimeout n).recorder.fresh = s.recorder.fresh ∧
    (s.takeReleaseTimeout n).recorder.staged = s.recorder.staged ∧
    (s.takeReleaseTimeout n).recorder.records.map PendingRecord.core = s.recorder.records.map PendingRecord.core ∧
    (s.takeReleaseTimeout n).recorder.batches = s.recorder.batches ∧
    (s.takeReleaseTimeout n).path.base = s.path.base ∧
    (s.takeReleaseTimeout n).path.decodeEn = s.path.decodeEn ∧
    (s.takeReleaseTimeout n).path.resetAsserted = s.path.resetAsserted ∧
    (s.takeReleaseTimeout n).path.queues = s.path.queues ∧
    (s.takeReleaseTimeout n).path.partialWrites = s.path.partialWrites ∧
    (s.takeReleaseTimeout n).path.memoryFaults = s.path.memoryFaults ∧
    (s.takeReleaseTimeout n).path.faultMark = s.path.faultMark ∧
    (s.takeReleaseTimeout n).path.fwdWait = s.path.fwdWait ∧
    (s.takeReleaseTimeout n).path.presented = s.path.presented ∧
    (s.takeReleaseTimeout n).path.lastOwn = s.path.lastOwn ∧
    (s.takeReleaseTimeout n).path.returned = s.path.returned ∧ (s.takeReleaseTimeout n).plan = s.plan ∧
    (s.takeReleaseTimeout n).notice.imagePending = s.notice.imagePending ∧
    (s.takeReleaseTimeout n).notice.imageDeferred = s.notice.imageDeferred ∧
    (s.takeReleaseTimeout n).notice.image = s.notice.image ∧ (s.takeReleaseTimeout n).mem = s.mem ∧
    (s.takeReleaseTimeout n).pending = s.pending := by
  simp only [State.takeReleaseTimeout]; (repeat' split) <;> simp

@[simp] theorem State.lineClose_frame (s : State) (r : Bool) (n : Nat) :
    (s.lineClose r n).src = s.src ∧ (s.lineClose r n).line.occupancy = s.line.occupancy ∧
    (s.lineClose r n).ring.programs = s.ring.programs ∧ (s.lineClose r n).group = s.group ∧
    (s.lineClose r n).recorder.status = s.recorder.status ∧ (s.lineClose r n).recorder.cap = s.recorder.cap ∧
    (s.lineClose r n).recorder.producer = s.recorder.producer ∧
    (s.lineClose r n).recorder.consumer = s.recorder.consumer ∧
    (s.lineClose r n).recorder.seconds = s.recorder.seconds ∧
    (s.lineClose r n).recorder.frameInSecond = s.recorder.frameInSecond ∧
    (s.lineClose r n).recorder.fresh = s.recorder.fresh ∧
    (s.lineClose r n).recorder.staged = s.recorder.staged ∧
    (s.lineClose r n).recorder.records.map PendingRecord.core = s.recorder.records.map PendingRecord.core ∧
    (s.lineClose r n).recorder.batches = s.recorder.batches ∧ (s.lineClose r n).path.base = s.path.base ∧
    (s.lineClose r n).path.decodeEn = s.path.decodeEn ∧
    (s.lineClose r n).path.resetAsserted = s.path.resetAsserted ∧
    (s.lineClose r n).path.queues = s.path.queues ∧
    (s.lineClose r n).path.partialWrites = s.path.partialWrites ∧
    (s.lineClose r n).path.memoryFaults = s.path.memoryFaults ∧
    (s.lineClose r n).path.faultMark = s.path.faultMark ∧ (s.lineClose r n).path.fwdWait = s.path.fwdWait ∧
    (s.lineClose r n).path.presented = s.path.presented ∧ (s.lineClose r n).path.lastOwn = s.path.lastOwn ∧
    (s.lineClose r n).path.returned = s.path.returned ∧ (s.lineClose r n).plan = s.plan ∧
    (s.lineClose r n).notice.imagePending = s.notice.imagePending ∧
    (s.lineClose r n).notice.imageDeferred = s.notice.imageDeferred ∧
    (s.lineClose r n).notice.image = s.notice.image ∧ (s.lineClose r n).mem = s.mem ∧
    (s.lineClose r n).pending = s.pending := by
  simp only [State.lineClose]; (repeat' split) <;> simp

@[simp] theorem State.lineCloses_frame (s : State) (r : List Nat) (l : List Nat) :
    (s.lineCloses r l).src = s.src ∧ (s.lineCloses r l).line.occupancy = s.line.occupancy ∧
    (s.lineCloses r l).ring.programs = s.ring.programs ∧ (s.lineCloses r l).group = s.group ∧
    (s.lineCloses r l).recorder.status = s.recorder.status ∧ (s.lineCloses r l).recorder.cap = s.recorder.cap ∧
    (s.lineCloses r l).recorder.producer = s.recorder.producer ∧
    (s.lineCloses r l).recorder.consumer = s.recorder.consumer ∧
    (s.lineCloses r l).recorder.seconds = s.recorder.seconds ∧
    (s.lineCloses r l).recorder.frameInSecond = s.recorder.frameInSecond ∧
    (s.lineCloses r l).recorder.fresh = s.recorder.fresh ∧
    (s.lineCloses r l).recorder.staged = s.recorder.staged ∧
    (s.lineCloses r l).recorder.records.map PendingRecord.core = s.recorder.records.map PendingRecord.core ∧
    (s.lineCloses r l).recorder.batches = s.recorder.batches ∧ (s.lineCloses r l).path.base = s.path.base ∧
    (s.lineCloses r l).path.decodeEn = s.path.decodeEn ∧
    (s.lineCloses r l).path.resetAsserted = s.path.resetAsserted ∧
    (s.lineCloses r l).path.queues = s.path.queues ∧
    (s.lineCloses r l).path.partialWrites = s.path.partialWrites ∧
    (s.lineCloses r l).path.memoryFaults = s.path.memoryFaults ∧
    (s.lineCloses r l).path.faultMark = s.path.faultMark ∧ (s.lineCloses r l).path.fwdWait = s.path.fwdWait ∧
    (s.lineCloses r l).path.presented = s.path.presented ∧ (s.lineCloses r l).path.lastOwn = s.path.lastOwn ∧
    (s.lineCloses r l).path.returned = s.path.returned ∧ (s.lineCloses r l).plan = s.plan ∧
    (s.lineCloses r l).notice.imagePending = s.notice.imagePending ∧
    (s.lineCloses r l).notice.imageDeferred = s.notice.imageDeferred ∧
    (s.lineCloses r l).notice.image = s.notice.image ∧ (s.lineCloses r l).mem = s.mem ∧
    (s.lineCloses r l).pending = s.pending := by
  induction l generalizing s with
  | nil => simp [State.lineCloses]
  | cons x rest ih => simp [State.lineCloses, ih]

@[simp] theorem State.enableLine_frame (s : State) (n : Nat) (r : LineRec) :
    (s.enableLine n r).src = s.src ∧ (s.enableLine n r).line.occupancy = s.line.occupancy ∧
    (s.enableLine n r).ring.programs = s.ring.programs ∧ (s.enableLine n r).group = s.group ∧
    (s.enableLine n r).recorder.status = s.recorder.status ∧ (s.enableLine n r).recorder.cap = s.recorder.cap ∧
    (s.enableLine n r).recorder.producer = s.recorder.producer ∧
    (s.enableLine n r).recorder.consumer = s.recorder.consumer ∧
    (s.enableLine n r).recorder.seconds = s.recorder.seconds ∧
    (s.enableLine n r).recorder.frameInSecond = s.recorder.frameInSecond ∧
    (s.enableLine n r).recorder.fresh = s.recorder.fresh ∧
    (s.enableLine n r).recorder.staged = s.recorder.staged ∧
    (s.enableLine n r).recorder.records.map PendingRecord.core = s.recorder.records.map PendingRecord.core ∧
    (s.enableLine n r).recorder.batches = s.recorder.batches ∧ (s.enableLine n r).path.base = s.path.base ∧
    (s.enableLine n r).path.decodeEn = s.path.decodeEn ∧
    (s.enableLine n r).path.resetAsserted = s.path.resetAsserted ∧
    (s.enableLine n r).path.queues = s.path.queues ∧
    (s.enableLine n r).path.partialWrites = s.path.partialWrites ∧
    (s.enableLine n r).path.memoryFaults = s.path.memoryFaults ∧
    (s.enableLine n r).path.faultMark = s.path.faultMark ∧ (s.enableLine n r).path.fwdWait = s.path.fwdWait ∧
    (s.enableLine n r).path.presented = s.path.presented ∧ (s.enableLine n r).path.lastOwn = s.path.lastOwn ∧
    (s.enableLine n r).path.returned = s.path.returned ∧ (s.enableLine n r).plan = s.plan ∧
    (s.enableLine n r).notice.imagePending = s.notice.imagePending ∧
    (s.enableLine n r).notice.imageDeferred = s.notice.imageDeferred ∧
    (s.enableLine n r).notice.image = s.notice.image ∧ (s.enableLine n r).mem = s.mem ∧
    (s.enableLine n r).pending = s.pending := by
  simp only [State.enableLine]; (repeat' split) <;> simp

@[simp] theorem State.applyLine_frame (s : State) (n : Nat) (r : LineRec) :
    ((s.applyLine n r).1).src = s.src ∧ ((s.applyLine n r).1).line.occupancy = s.line.occupancy ∧
    ((s.applyLine n r).1).ring.programs = s.ring.programs ∧ ((s.applyLine n r).1).group = s.group ∧
    ((s.applyLine n r).1).recorder.status = s.recorder.status ∧
    ((s.applyLine n r).1).recorder.cap = s.recorder.cap ∧
    ((s.applyLine n r).1).recorder.producer = s.recorder.producer ∧
    ((s.applyLine n r).1).recorder.consumer = s.recorder.consumer ∧
    ((s.applyLine n r).1).recorder.seconds = s.recorder.seconds ∧
    ((s.applyLine n r).1).recorder.frameInSecond = s.recorder.frameInSecond ∧
    ((s.applyLine n r).1).recorder.fresh = s.recorder.fresh ∧
    ((s.applyLine n r).1).recorder.staged = s.recorder.staged ∧
    ((s.applyLine n r).1).recorder.records.map PendingRecord.core = s.recorder.records.map PendingRecord.core ∧
    ((s.applyLine n r).1).recorder.batches = s.recorder.batches ∧
    ((s.applyLine n r).1).path.base = s.path.base ∧ ((s.applyLine n r).1).path.decodeEn = s.path.decodeEn ∧
    ((s.applyLine n r).1).path.resetAsserted = s.path.resetAsserted ∧
    ((s.applyLine n r).1).path.queues = s.path.queues ∧
    ((s.applyLine n r).1).path.partialWrites = s.path.partialWrites ∧
    ((s.applyLine n r).1).path.memoryFaults = s.path.memoryFaults ∧
    ((s.applyLine n r).1).path.faultMark = s.path.faultMark ∧
    ((s.applyLine n r).1).path.fwdWait = s.path.fwdWait ∧
    ((s.applyLine n r).1).path.presented = s.path.presented ∧
    ((s.applyLine n r).1).path.lastOwn = s.path.lastOwn ∧
    ((s.applyLine n r).1).path.returned = s.path.returned ∧ ((s.applyLine n r).1).plan = s.plan ∧
    ((s.applyLine n r).1).notice.imagePending = s.notice.imagePending ∧
    ((s.applyLine n r).1).notice.imageDeferred = s.notice.imageDeferred ∧
    ((s.applyLine n r).1).notice.image = s.notice.image ∧ ((s.applyLine n r).1).mem = s.mem ∧
    ((s.applyLine n r).1).pending = s.pending := by
  simp only [State.applyLine]; (repeat' split) <;> simp

end Sys2Proof.Machine
end

