-- ==== Sys2Proof/Laws/GroupFrames.lean ====
section
/-!
SUPPORT. The frames of the group controller (Machine/GroupUnit.lean), and of the requests that ask for a channel. Each lemma says
which parts of the state an operation leaves as they were, so that no later proof unfolds it for that.
-/

namespace Sys2Proof.Machine

@[simp] theorem State.free_frame (s : State) (h g : Nat) :
    (s.free h g).src = s.src ∧ (s.free h g).mix = s.mix ∧ (s.free h g).line.lines = s.line.lines ∧
    (s.free h g).ring = s.ring ∧ (s.free h g).group = s.group ∧ (s.free h g).recorder = s.recorder ∧
    (s.free h g).path = s.path ∧ (s.free h g).plan = s.plan ∧ (s.free h g).notice = s.notice ∧
    (s.free h g).mem = s.mem ∧ (s.free h g).pending = s.pending := by
  simp only [State.free]; (repeat' split) <;> simp

@[simp] theorem State.addMember_frame (s : State) (g : Nat) (m : Member) :
    (s.addMember g m).src = s.src ∧ (s.addMember g m).mix = s.mix ∧ (s.addMember g m).line = s.line ∧
    (s.addMember g m).ring = s.ring ∧ (s.addMember g m).recorder = s.recorder ∧
    (s.addMember g m).path.base = s.path.base ∧ (s.addMember g m).path.decodeEn = s.path.decodeEn ∧
    (s.addMember g m).path.resetAsserted = s.path.resetAsserted ∧
    (s.addMember g m).path.queues = s.path.queues ∧
    (s.addMember g m).path.partialWrites = s.path.partialWrites ∧
    (s.addMember g m).path.memoryFaults = s.path.memoryFaults ∧
    (s.addMember g m).path.faultMark = s.path.faultMark ∧ (s.addMember g m).path.fwdWait = s.path.fwdWait ∧
    (s.addMember g m).path.presented = s.path.presented ∧ (s.addMember g m).path.lastOwn = s.path.lastOwn ∧
    (s.addMember g m).path.returned = s.path.returned ∧ (s.addMember g m).plan = s.plan ∧
    (s.addMember g m).notice.imagePending = s.notice.imagePending ∧
    (s.addMember g m).notice.imageDeferred = s.notice.imageDeferred ∧
    (s.addMember g m).notice.image = s.notice.image ∧ (s.addMember g m).mem = s.mem ∧
    (s.addMember g m).pending = s.pending := by
  simp [State.addMember]

@[simp] theorem State.leaveGroup_frame (s : State) (g : Nat) (m : Member) (c : Cause) :
    (s.leaveGroup g m c).src = s.src ∧ (s.leaveGroup g m c).line.lines = s.line.lines ∧
    (s.leaveGroup g m c).ring = s.ring ∧ (s.leaveGroup g m c).recorder.status = s.recorder.status ∧
    (s.leaveGroup g m c).recorder.cap = s.recorder.cap ∧
    (s.leaveGroup g m c).recorder.producer = s.recorder.producer ∧
    (s.leaveGroup g m c).recorder.consumer = s.recorder.consumer ∧
    (s.leaveGroup g m c).recorder.seconds = s.recorder.seconds ∧
    (s.leaveGroup g m c).recorder.frameInSecond = s.recorder.frameInSecond ∧
    (s.leaveGroup g m c).recorder.fresh = s.recorder.fresh ∧
    (s.leaveGroup g m c).recorder.staged = s.recorder.staged ∧
    (s.leaveGroup g m c).recorder.records.map PendingRecord.core = s.recorder.records.map PendingRecord.core ∧
    (s.leaveGroup g m c).recorder.batches = s.recorder.batches ∧ (s.leaveGroup g m c).path.base = s.path.base ∧
    (s.leaveGroup g m c).path.decodeEn = s.path.decodeEn ∧
    (s.leaveGroup g m c).path.resetAsserted = s.path.resetAsserted ∧
    (s.leaveGroup g m c).path.queues = s.path.queues ∧
    (s.leaveGroup g m c).path.partialWrites = s.path.partialWrites ∧
    (s.leaveGroup g m c).path.memoryFaults = s.path.memoryFaults ∧
    (s.leaveGroup g m c).path.faultMark = s.path.faultMark ∧
    (s.leaveGroup g m c).path.fwdWait = s.path.fwdWait ∧
    (s.leaveGroup g m c).path.presented = s.path.presented ∧
    (s.leaveGroup g m c).path.lastOwn = s.path.lastOwn ∧ (s.leaveGroup g m c).path.returned = s.path.returned ∧
    (s.leaveGroup g m c).plan = s.plan ∧ (s.leaveGroup g m c).notice.imagePending = s.notice.imagePending ∧
    (s.leaveGroup g m c).notice.imageDeferred = s.notice.imageDeferred ∧
    (s.leaveGroup g m c).notice.image = s.notice.image ∧ (s.leaveGroup g m c).mem = s.mem ∧
    (s.leaveGroup g m c).pending = s.pending := by
  simp only [State.leaveGroup]; (repeat' split) <;> simp

@[simp] theorem State.groupLeave_frame (s : State) (t g : Nat) :
    ((s.groupLeave t g).1).src = s.src ∧ ((s.groupLeave t g).1).line.lines = s.line.lines ∧
    ((s.groupLeave t g).1).ring = s.ring ∧ ((s.groupLeave t g).1).recorder.status = s.recorder.status ∧
    ((s.groupLeave t g).1).recorder.cap = s.recorder.cap ∧
    ((s.groupLeave t g).1).recorder.producer = s.recorder.producer ∧
    ((s.groupLeave t g).1).recorder.consumer = s.recorder.consumer ∧
    ((s.groupLeave t g).1).recorder.seconds = s.recorder.seconds ∧
    ((s.groupLeave t g).1).recorder.frameInSecond = s.recorder.frameInSecond ∧
    ((s.groupLeave t g).1).recorder.fresh = s.recorder.fresh ∧
    ((s.groupLeave t g).1).recorder.staged = s.recorder.staged ∧
    ((s.groupLeave t g).1).recorder.records.map PendingRecord.core = s.recorder.records.map PendingRecord.core ∧
    ((s.groupLeave t g).1).recorder.batches = s.recorder.batches ∧
    ((s.groupLeave t g).1).path.base = s.path.base ∧ ((s.groupLeave t g).1).path.decodeEn = s.path.decodeEn ∧
    ((s.groupLeave t g).1).path.resetAsserted = s.path.resetAsserted ∧
    ((s.groupLeave t g).1).path.queues = s.path.queues ∧
    ((s.groupLeave t g).1).path.partialWrites = s.path.partialWrites ∧
    ((s.groupLeave t g).1).path.memoryFaults = s.path.memoryFaults ∧
    ((s.groupLeave t g).1).path.faultMark = s.path.faultMark ∧
    ((s.groupLeave t g).1).path.fwdWait = s.path.fwdWait ∧
    ((s.groupLeave t g).1).path.presented = s.path.presented ∧
    ((s.groupLeave t g).1).path.lastOwn = s.path.lastOwn ∧
    ((s.groupLeave t g).1).path.returned = s.path.returned ∧ ((s.groupLeave t g).1).plan = s.plan ∧
    ((s.groupLeave t g).1).notice.imagePending = s.notice.imagePending ∧
    ((s.groupLeave t g).1).notice.imageDeferred = s.notice.imageDeferred ∧
    ((s.groupLeave t g).1).notice.image = s.notice.image ∧ ((s.groupLeave t g).1).mem = s.mem ∧
    ((s.groupLeave t g).1).pending = s.pending := by
  simp only [State.groupLeave]; (repeat' split) <;> simp

@[simp] theorem State.setKey_frame (s : State) (g t : Nat) (k : Bool) (c : Cause) :
    (s.setKey g t k c).src = s.src ∧ (s.setKey g t k c).mix = s.mix ∧ (s.setKey g t k c).line = s.line ∧
    (s.setKey g t k c).ring = s.ring ∧ (s.setKey g t k c).recorder = s.recorder ∧
    (s.setKey g t k c).path.base = s.path.base ∧ (s.setKey g t k c).path.decodeEn = s.path.decodeEn ∧
    (s.setKey g t k c).path.resetAsserted = s.path.resetAsserted ∧
    (s.setKey g t k c).path.queues = s.path.queues ∧
    (s.setKey g t k c).path.partialWrites = s.path.partialWrites ∧
    (s.setKey g t k c).path.memoryFaults = s.path.memoryFaults ∧
    (s.setKey g t k c).path.faultMark = s.path.faultMark ∧ (s.setKey g t k c).path.fwdWait = s.path.fwdWait ∧
    (s.setKey g t k c).path.presented = s.path.presented ∧ (s.setKey g t k c).path.lastOwn = s.path.lastOwn ∧
    (s.setKey g t k c).path.returned = s.path.returned ∧ (s.setKey g t k c).plan = s.plan ∧
    (s.setKey g t k c).notice.imagePending = s.notice.imagePending ∧
    (s.setKey g t k c).notice.imageDeferred = s.notice.imageDeferred ∧
    (s.setKey g t k c).notice.image = s.notice.image ∧ (s.setKey g t k c).mem = s.mem ∧
    (s.setKey g t k c).pending = s.pending := by
  simp [State.setKey]

@[simp] theorem State.talkKey_frame (s : State) (t g : Nat) :
    ((s.talkKey t g).1).src = s.src ∧ ((s.talkKey t g).1).mix = s.mix ∧ ((s.talkKey t g).1).line = s.line ∧
    ((s.talkKey t g).1).ring = s.ring ∧ ((s.talkKey t g).1).recorder = s.recorder ∧
    ((s.talkKey t g).1).path.base = s.path.base ∧ ((s.talkKey t g).1).path.decodeEn = s.path.decodeEn ∧
    ((s.talkKey t g).1).path.resetAsserted = s.path.resetAsserted ∧
    ((s.talkKey t g).1).path.queues = s.path.queues ∧
    ((s.talkKey t g).1).path.partialWrites = s.path.partialWrites ∧
    ((s.talkKey t g).1).path.memoryFaults = s.path.memoryFaults ∧
    ((s.talkKey t g).1).path.faultMark = s.path.faultMark ∧ ((s.talkKey t g).1).path.fwdWait = s.path.fwdWait ∧
    ((s.talkKey t g).1).path.presented = s.path.presented ∧ ((s.talkKey t g).1).path.lastOwn = s.path.lastOwn ∧
    ((s.talkKey t g).1).path.returned = s.path.returned ∧ ((s.talkKey t g).1).plan = s.plan ∧
    ((s.talkKey t g).1).notice.imagePending = s.notice.imagePending ∧
    ((s.talkKey t g).1).notice.imageDeferred = s.notice.imageDeferred ∧
    ((s.talkKey t g).1).notice.image = s.notice.image ∧ ((s.talkKey t g).1).mem = s.mem ∧
    ((s.talkKey t g).1).pending = s.pending := by
  simp only [State.talkKey]; (repeat' split) <;> simp

@[simp] theorem State.talkUnkey_frame (s : State) (t g : Nat) :
    ((s.talkUnkey t g).1).src = s.src ∧ ((s.talkUnkey t g).1).mix = s.mix ∧
    ((s.talkUnkey t g).1).line = s.line ∧ ((s.talkUnkey t g).1).ring = s.ring ∧
    ((s.talkUnkey t g).1).recorder = s.recorder ∧ ((s.talkUnkey t g).1).path.base = s.path.base ∧
    ((s.talkUnkey t g).1).path.decodeEn = s.path.decodeEn ∧
    ((s.talkUnkey t g).1).path.resetAsserted = s.path.resetAsserted ∧
    ((s.talkUnkey t g).1).path.queues = s.path.queues ∧
    ((s.talkUnkey t g).1).path.partialWrites = s.path.partialWrites ∧
    ((s.talkUnkey t g).1).path.memoryFaults = s.path.memoryFaults ∧
    ((s.talkUnkey t g).1).path.faultMark = s.path.faultMark ∧
    ((s.talkUnkey t g).1).path.fwdWait = s.path.fwdWait ∧
    ((s.talkUnkey t g).1).path.presented = s.path.presented ∧
    ((s.talkUnkey t g).1).path.lastOwn = s.path.lastOwn ∧
    ((s.talkUnkey t g).1).path.returned = s.path.returned ∧ ((s.talkUnkey t g).1).plan = s.plan ∧
    ((s.talkUnkey t g).1).notice.imagePending = s.notice.imagePending ∧
    ((s.talkUnkey t g).1).notice.imageDeferred = s.notice.imageDeferred ∧
    ((s.talkUnkey t g).1).notice.image = s.notice.image ∧ ((s.talkUnkey t g).1).mem = s.mem ∧
    ((s.talkUnkey t g).1).pending = s.pending := by
  simp only [State.talkUnkey]; (repeat' split) <;> simp

@[simp] theorem State.takeKeyTimeout_frame (s : State) (k g t : Nat) :
    (s.takeKeyTimeout k g t).src = s.src ∧ (s.takeKeyTimeout k g t).mix = s.mix ∧
    (s.takeKeyTimeout k g t).line = s.line ∧ (s.takeKeyTimeout k g t).ring = s.ring ∧
    (s.takeKeyTimeout k g t).recorder = s.recorder ∧ (s.takeKeyTimeout k g t).path.base = s.path.base ∧
    (s.takeKeyTimeout k g t).path.decodeEn = s.path.decodeEn ∧
    (s.takeKeyTimeout k g t).path.resetAsserted = s.path.resetAsserted ∧
    (s.takeKeyTimeout k g t).path.queues = s.path.queues ∧
    (s.takeKeyTimeout k g t).path.partialWrites = s.path.partialWrites ∧
    (s.takeKeyTimeout k g t).path.memoryFaults = s.path.memoryFaults ∧
    (s.takeKeyTimeout k g t).path.faultMark = s.path.faultMark ∧
    (s.takeKeyTimeout k g t).path.fwdWait = s.path.fwdWait ∧
    (s.takeKeyTimeout k g t).path.presented = s.path.presented ∧
    (s.takeKeyTimeout k g t).path.lastOwn = s.path.lastOwn ∧
    (s.takeKeyTimeout k g t).path.returned = s.path.returned ∧ (s.takeKeyTimeout k g t).plan = s.plan ∧
    (s.takeKeyTimeout k g t).notice.imagePending = s.notice.imagePending ∧
    (s.takeKeyTimeout k g t).notice.imageDeferred = s.notice.imageDeferred ∧
    (s.takeKeyTimeout k g t).notice.image = s.notice.image ∧ (s.takeKeyTimeout k g t).mem = s.mem ∧
    (s.takeKeyTimeout k g t).pending = s.pending := by
  simp only [State.takeKeyTimeout]; (repeat' split) <;> simp

@[simp] theorem State.takeKeyTimeouts_frame (s : State) (g : Nat) (l : List Nat) :
    (s.takeKeyTimeouts g l).src = s.src ∧ (s.takeKeyTimeouts g l).mix = s.mix ∧
    (s.takeKeyTimeouts g l).line = s.line ∧ (s.takeKeyTimeouts g l).ring = s.ring ∧
    (s.takeKeyTimeouts g l).recorder = s.recorder ∧ (s.takeKeyTimeouts g l).path.base = s.path.base ∧
    (s.takeKeyTimeouts g l).path.decodeEn = s.path.decodeEn ∧
    (s.takeKeyTimeouts g l).path.resetAsserted = s.path.resetAsserted ∧
    (s.takeKeyTimeouts g l).path.queues = s.path.queues ∧
    (s.takeKeyTimeouts g l).path.partialWrites = s.path.partialWrites ∧
    (s.takeKeyTimeouts g l).path.memoryFaults = s.path.memoryFaults ∧
    (s.takeKeyTimeouts g l).path.faultMark = s.path.faultMark ∧
    (s.takeKeyTimeouts g l).path.fwdWait = s.path.fwdWait ∧
    (s.takeKeyTimeouts g l).path.presented = s.path.presented ∧
    (s.takeKeyTimeouts g l).path.lastOwn = s.path.lastOwn ∧
    (s.takeKeyTimeouts g l).path.returned = s.path.returned ∧ (s.takeKeyTimeouts g l).plan = s.plan ∧
    (s.takeKeyTimeouts g l).notice.imagePending = s.notice.imagePending ∧
    (s.takeKeyTimeouts g l).notice.imageDeferred = s.notice.imageDeferred ∧
    (s.takeKeyTimeouts g l).notice.image = s.notice.image ∧ (s.takeKeyTimeouts g l).mem = s.mem ∧
    (s.takeKeyTimeouts g l).pending = s.pending := by
  induction l generalizing s with
  | nil => simp [State.takeKeyTimeouts]
  | cons x rest ih => simp [State.takeKeyTimeouts, ih]

@[simp] theorem State.keyClose_frame (s : State) (g : Nat) :
    (s.keyClose g).src = s.src ∧ (s.keyClose g).mix = s.mix ∧ (s.keyClose g).line = s.line ∧
    (s.keyClose g).ring = s.ring ∧ (s.keyClose g).recorder = s.recorder ∧
    (s.keyClose g).path.base = s.path.base ∧ (s.keyClose g).path.decodeEn = s.path.decodeEn ∧
    (s.keyClose g).path.resetAsserted = s.path.resetAsserted ∧ (s.keyClose g).path.queues = s.path.queues ∧
    (s.keyClose g).path.partialWrites = s.path.partialWrites ∧
    (s.keyClose g).path.memoryFaults = s.path.memoryFaults ∧ (s.keyClose g).path.faultMark = s.path.faultMark ∧
    (s.keyClose g).path.fwdWait = s.path.fwdWait ∧ (s.keyClose g).path.presented = s.path.presented ∧
    (s.keyClose g).path.lastOwn = s.path.lastOwn ∧ (s.keyClose g).path.returned = s.path.returned ∧
    (s.keyClose g).plan = s.plan ∧ (s.keyClose g).notice.imagePending = s.notice.imagePending ∧
    (s.keyClose g).notice.imageDeferred = s.notice.imageDeferred ∧
    (s.keyClose g).notice.image = s.notice.image ∧ (s.keyClose g).mem = s.mem ∧
    (s.keyClose g).pending = s.pending := by
  simp only [State.keyClose]; (repeat' split) <;> simp

@[simp] theorem State.keyCloses_frame (s : State) (l : List Nat) :
    (s.keyCloses l).src = s.src ∧ (s.keyCloses l).mix = s.mix ∧ (s.keyCloses l).line = s.line ∧
    (s.keyCloses l).ring = s.ring ∧ (s.keyCloses l).recorder = s.recorder ∧
    (s.keyCloses l).path.base = s.path.base ∧ (s.keyCloses l).path.decodeEn = s.path.decodeEn ∧
    (s.keyCloses l).path.resetAsserted = s.path.resetAsserted ∧ (s.keyCloses l).path.queues = s.path.queues ∧
    (s.keyCloses l).path.partialWrites = s.path.partialWrites ∧
    (s.keyCloses l).path.memoryFaults = s.path.memoryFaults ∧
    (s.keyCloses l).path.faultMark = s.path.faultMark ∧ (s.keyCloses l).path.fwdWait = s.path.fwdWait ∧
    (s.keyCloses l).path.presented = s.path.presented ∧ (s.keyCloses l).path.lastOwn = s.path.lastOwn ∧
    (s.keyCloses l).path.returned = s.path.returned ∧ (s.keyCloses l).plan = s.plan ∧
    (s.keyCloses l).notice.imagePending = s.notice.imagePending ∧
    (s.keyCloses l).notice.imageDeferred = s.notice.imageDeferred ∧
    (s.keyCloses l).notice.image = s.notice.image ∧ (s.keyCloses l).mem = s.mem ∧
    (s.keyCloses l).pending = s.pending := by
  induction l generalizing s with
  | nil => simp [State.keyCloses]
  | cons x rest ih => simp [State.keyCloses, ih]

@[simp] theorem State.formLatches_frame (s : State) :
    (s.formLatches).src = s.src ∧ (s.formLatches).mix = s.mix ∧ (s.formLatches).line = s.line ∧
    (s.formLatches).ring = s.ring ∧ (s.formLatches).recorder = s.recorder ∧ (s.formLatches).path = s.path ∧
    (s.formLatches).plan = s.plan ∧ (s.formLatches).notice = s.notice ∧ (s.formLatches).mem = s.mem ∧
    (s.formLatches).pending = s.pending := by
  simp [State.formLatches]

@[simp] theorem State.loseMember_frame (s : State) (t g : Nat) :
    (s.loseMember t g).src = s.src ∧ (s.loseMember t g).line.lines = s.line.lines ∧
    (s.loseMember t g).ring = s.ring ∧ (s.loseMember t g).recorder.status = s.recorder.status ∧
    (s.loseMember t g).recorder.cap = s.recorder.cap ∧
    (s.loseMember t g).recorder.producer = s.recorder.producer ∧
    (s.loseMember t g).recorder.consumer = s.recorder.consumer ∧
    (s.loseMember t g).recorder.seconds = s.recorder.seconds ∧
    (s.loseMember t g).recorder.frameInSecond = s.recorder.frameInSecond ∧
    (s.loseMember t g).recorder.fresh = s.recorder.fresh ∧
    (s.loseMember t g).recorder.staged = s.recorder.staged ∧
    (s.loseMember t g).recorder.records.map PendingRecord.core = s.recorder.records.map PendingRecord.core ∧
    (s.loseMember t g).recorder.batches = s.recorder.batches ∧ (s.loseMember t g).path.base = s.path.base ∧
    (s.loseMember t g).path.decodeEn = s.path.decodeEn ∧
    (s.loseMember t g).path.resetAsserted = s.path.resetAsserted ∧
    (s.loseMember t g).path.queues = s.path.queues ∧
    (s.loseMember t g).path.partialWrites = s.path.partialWrites ∧
    (s.loseMember t g).path.memoryFaults = s.path.memoryFaults ∧
    (s.loseMember t g).path.faultMark = s.path.faultMark ∧ (s.loseMember t g).path.fwdWait = s.path.fwdWait ∧
    (s.loseMember t g).path.presented = s.path.presented ∧ (s.loseMember t g).path.lastOwn = s.path.lastOwn ∧
    (s.loseMember t g).path.returned = s.path.returned ∧ (s.loseMember t g).plan = s.plan ∧
    (s.loseMember t g).notice.imagePending = s.notice.imagePending ∧
    (s.loseMember t g).notice.imageDeferred = s.notice.imageDeferred ∧
    (s.loseMember t g).notice.image = s.notice.image ∧ (s.loseMember t g).mem = s.mem ∧
    (s.loseMember t g).pending = s.pending := by
  simp only [State.loseMember]; (repeat' split) <;> simp

@[simp] theorem State.loseMembers_frame (s : State) (t : Nat) (l : List Nat) :
    (s.loseMembers t l).src = s.src ∧ (s.loseMembers t l).line.lines = s.line.lines ∧
    (s.loseMembers t l).ring = s.ring ∧ (s.loseMembers t l).recorder.status = s.recorder.status ∧
    (s.loseMembers t l).recorder.cap = s.recorder.cap ∧
    (s.loseMembers t l).recorder.producer = s.recorder.producer ∧
    (s.loseMembers t l).recorder.consumer = s.recorder.consumer ∧
    (s.loseMembers t l).recorder.seconds = s.recorder.seconds ∧
    (s.loseMembers t l).recorder.frameInSecond = s.recorder.frameInSecond ∧
    (s.loseMembers t l).recorder.fresh = s.recorder.fresh ∧
    (s.loseMembers t l).recorder.staged = s.recorder.staged ∧
    (s.loseMembers t l).recorder.records.map PendingRecord.core = s.recorder.records.map PendingRecord.core ∧
    (s.loseMembers t l).recorder.batches = s.recorder.batches ∧ (s.loseMembers t l).path.base = s.path.base ∧
    (s.loseMembers t l).path.decodeEn = s.path.decodeEn ∧
    (s.loseMembers t l).path.resetAsserted = s.path.resetAsserted ∧
    (s.loseMembers t l).path.queues = s.path.queues ∧
    (s.loseMembers t l).path.partialWrites = s.path.partialWrites ∧
    (s.loseMembers t l).path.memoryFaults = s.path.memoryFaults ∧
    (s.loseMembers t l).path.faultMark = s.path.faultMark ∧ (s.loseMembers t l).path.fwdWait = s.path.fwdWait ∧
    (s.loseMembers t l).path.presented = s.path.presented ∧ (s.loseMembers t l).path.lastOwn = s.path.lastOwn ∧
    (s.loseMembers t l).path.returned = s.path.returned ∧ (s.loseMembers t l).plan = s.plan ∧
    (s.loseMembers t l).notice.imagePending = s.notice.imagePending ∧
    (s.loseMembers t l).notice.imageDeferred = s.notice.imageDeferred ∧
    (s.loseMembers t l).notice.image = s.notice.image ∧ (s.loseMembers t l).mem = s.mem ∧
    (s.loseMembers t l).pending = s.pending := by
  induction l generalizing s with
  | nil => simp [State.loseMembers]
  | cons x rest ih => simp [State.loseMembers, ih]

@[simp] theorem State.applyGroup_frame (s : State) (g : Nat) (r : GroupRec) :
    ((s.applyGroup g r).1).src = s.src ∧ ((s.applyGroup g r).1).line = s.line ∧
    ((s.applyGroup g r).1).ring = s.ring ∧ ((s.applyGroup g r).1).recorder = s.recorder ∧
    ((s.applyGroup g r).1).path = s.path ∧ ((s.applyGroup g r).1).plan = s.plan ∧
    ((s.applyGroup g r).1).notice = s.notice ∧ ((s.applyGroup g r).1).mem = s.mem ∧
    ((s.applyGroup g r).1).pending = s.pending := by
  simp only [State.applyGroup]; (repeat' split) <;> simp

end Sys2Proof.Machine
end

