-- ==== Sys2Proof/Laws/SourceFrames.lean ====
section
/-!
SUPPORT. The frames of the source unit (Machine/SourceUnit.lean). Each lemma says which parts of the state an
operation leaves as they were, so that no later proof unfolds it for that.
-/

namespace Sys2Proof.Machine

@[simp] theorem State.hearTurret_frame (s : State) (t : Nat) :
    (s.hearTurret t).src.F = s.src.F ∧ (s.hearTurret t).src.lag = s.src.lag ∧
    (s.hearTurret t).src.clockLost = s.src.clockLost ∧ (s.hearTurret t).src.views = s.src.views ∧
    (s.hearTurret t).src.sources = s.src.sources ∧ (s.hearTurret t).src.snapPending = s.src.snapPending ∧
    (s.hearTurret t).src.snapDeferred = s.src.snapDeferred ∧
    (s.hearTurret t).src.levelImage = s.src.levelImage ∧ (s.hearTurret t).line = s.line ∧
    (s.hearTurret t).ring.programs = s.ring.programs ∧ (s.hearTurret t).group = s.group ∧
    (s.hearTurret t).recorder = s.recorder ∧ (s.hearTurret t).path.base = s.path.base ∧
    (s.hearTurret t).path.decodeEn = s.path.decodeEn ∧
    (s.hearTurret t).path.resetAsserted = s.path.resetAsserted ∧ (s.hearTurret t).path.queues = s.path.queues ∧
    (s.hearTurret t).path.partialWrites = s.path.partialWrites ∧
    (s.hearTurret t).path.memoryFaults = s.path.memoryFaults ∧
    (s.hearTurret t).path.faultMark = s.path.faultMark ∧ (s.hearTurret t).path.fwdWait = s.path.fwdWait ∧
    (s.hearTurret t).path.presented = s.path.presented ∧ (s.hearTurret t).path.lastOwn = s.path.lastOwn ∧
    (s.hearTurret t).path.returned = s.path.returned ∧ (s.hearTurret t).plan = s.plan ∧
    (s.hearTurret t).notice.imagePending = s.notice.imagePending ∧
    (s.hearTurret t).notice.imageDeferred = s.notice.imageDeferred ∧
    (s.hearTurret t).notice.image = s.notice.image ∧ (s.hearTurret t).mem = s.mem ∧
    (s.hearTurret t).pending = s.pending := by
  simp only [State.hearTurret]; (repeat' split) <;> simp

@[simp] theorem State.hearTurrets_frame (s : State) (i : Nat) (l : List Nat) :
    (s.hearTurrets i l).src.F = s.src.F ∧ (s.hearTurrets i l).src.lag = s.src.lag ∧
    (s.hearTurrets i l).src.clockLost = s.src.clockLost ∧ (s.hearTurrets i l).src.views = s.src.views ∧
    (s.hearTurrets i l).src.sources = s.src.sources ∧ (s.hearTurrets i l).src.snapPending = s.src.snapPending ∧
    (s.hearTurrets i l).src.snapDeferred = s.src.snapDeferred ∧
    (s.hearTurrets i l).src.levelImage = s.src.levelImage ∧ (s.hearTurrets i l).line = s.line ∧
    (s.hearTurrets i l).ring.programs = s.ring.programs ∧ (s.hearTurrets i l).group = s.group ∧
    (s.hearTurrets i l).recorder = s.recorder ∧ (s.hearTurrets i l).path.base = s.path.base ∧
    (s.hearTurrets i l).path.decodeEn = s.path.decodeEn ∧
    (s.hearTurrets i l).path.resetAsserted = s.path.resetAsserted ∧
    (s.hearTurrets i l).path.queues = s.path.queues ∧
    (s.hearTurrets i l).path.partialWrites = s.path.partialWrites ∧
    (s.hearTurrets i l).path.memoryFaults = s.path.memoryFaults ∧
    (s.hearTurrets i l).path.faultMark = s.path.faultMark ∧ (s.hearTurrets i l).path.fwdWait = s.path.fwdWait ∧
    (s.hearTurrets i l).path.presented = s.path.presented ∧ (s.hearTurrets i l).path.lastOwn = s.path.lastOwn ∧
    (s.hearTurrets i l).path.returned = s.path.returned ∧ (s.hearTurrets i l).plan = s.plan ∧
    (s.hearTurrets i l).notice.imagePending = s.notice.imagePending ∧
    (s.hearTurrets i l).notice.imageDeferred = s.notice.imageDeferred ∧
    (s.hearTurrets i l).notice.image = s.notice.image ∧ (s.hearTurrets i l).mem = s.mem ∧
    (s.hearTurrets i l).pending = s.pending := by
  induction l generalizing s with
  | nil => simp [State.hearTurrets]
  | cons x rest ih => simp only [State.hearTurrets]; (repeat' split) <;> simp [ih]

@[simp] theorem State.arrive_frame (s : State) (m e i q : Nat) (d : Burst) :
    (s.arrive m e i q d).src.F = s.src.F ∧ (s.arrive m e i q d).src.lag = s.src.lag ∧
    (s.arrive m e i q d).src.clockLost = s.src.clockLost ∧ (s.arrive m e i q d).src.views = s.src.views ∧
    (s.arrive m e i q d).src.snapPending = s.src.snapPending ∧
    (s.arrive m e i q d).src.snapDeferred = s.src.snapDeferred ∧
    (s.arrive m e i q d).src.levelImage = s.src.levelImage ∧ (s.arrive m e i q d).line = s.line ∧
    (s.arrive m e i q d).ring.programs = s.ring.programs ∧ (s.arrive m e i q d).group = s.group ∧
    (s.arrive m e i q d).recorder = s.recorder ∧ (s.arrive m e i q d).path.base = s.path.base ∧
    (s.arrive m e i q d).path.decodeEn = s.path.decodeEn ∧
    (s.arrive m e i q d).path.resetAsserted = s.path.resetAsserted ∧
    (s.arrive m e i q d).path.queues = s.path.queues ∧
    (s.arrive m e i q d).path.partialWrites = s.path.partialWrites ∧
    (s.arrive m e i q d).path.memoryFaults = s.path.memoryFaults ∧
    (s.arrive m e i q d).path.faultMark = s.path.faultMark ∧
    (s.arrive m e i q d).path.fwdWait = s.path.fwdWait ∧
    (s.arrive m e i q d).path.presented = s.path.presented ∧
    (s.arrive m e i q d).path.lastOwn = s.path.lastOwn ∧ (s.arrive m e i q d).path.returned = s.path.returned ∧
    (s.arrive m e i q d).plan = s.plan ∧ (s.arrive m e i q d).notice.imagePending = s.notice.imagePending ∧
    (s.arrive m e i q d).notice.imageDeferred = s.notice.imageDeferred ∧
    (s.arrive m e i q d).notice.image = s.notice.image ∧ (s.arrive m e i q d).mem = s.mem ∧
    (s.arrive m e i q d).pending = s.pending := by
  simp only [State.arrive]; (repeat' split) <;> simp

@[simp] theorem State.talkWrite_frame (s : State) (m i q : Nat) (d : Burst) :
    (s.talkWrite m i q d).src.F = s.src.F ∧ (s.talkWrite m i q d).src.lag = s.src.lag ∧
    (s.talkWrite m i q d).src.clockLost = s.src.clockLost ∧ (s.talkWrite m i q d).src.views = s.src.views ∧
    (s.talkWrite m i q d).src.snapPending = s.src.snapPending ∧
    (s.talkWrite m i q d).src.snapDeferred = s.src.snapDeferred ∧
    (s.talkWrite m i q d).src.levelImage = s.src.levelImage ∧ (s.talkWrite m i q d).line = s.line ∧
    (s.talkWrite m i q d).ring.programs = s.ring.programs ∧ (s.talkWrite m i q d).group = s.group ∧
    (s.talkWrite m i q d).recorder = s.recorder ∧ (s.talkWrite m i q d).path.base = s.path.base ∧
    (s.talkWrite m i q d).path.decodeEn = s.path.decodeEn ∧
    (s.talkWrite m i q d).path.resetAsserted = s.path.resetAsserted ∧
    (s.talkWrite m i q d).path.partialWrites = s.path.partialWrites ∧
    (s.talkWrite m i q d).path.memoryFaults = s.path.memoryFaults ∧
    (s.talkWrite m i q d).path.faultMark = s.path.faultMark ∧
    (s.talkWrite m i q d).path.fwdWait = s.path.fwdWait ∧
    (s.talkWrite m i q d).path.presented = s.path.presented ∧
    (s.talkWrite m i q d).path.lastOwn = s.path.lastOwn ∧ (s.talkWrite m i q d).plan = s.plan ∧
    (s.talkWrite m i q d).notice.imagePending = s.notice.imagePending ∧
    (s.talkWrite m i q d).notice.imageDeferred = s.notice.imageDeferred ∧
    (s.talkWrite m i q d).notice.image = s.notice.image ∧ (s.talkWrite m i q d).mem = s.mem ∧
    (s.talkWrite m i q d).pending = s.pending := by
  simp [State.talkWrite]

@[simp] theorem State.arriveAll_frame (s : State) (m e q : Nat) (l : List (Nat × Burst)) :
    (s.arriveAll m e q l).src.F = s.src.F ∧ (s.arriveAll m e q l).src.lag = s.src.lag ∧
    (s.arriveAll m e q l).src.clockLost = s.src.clockLost ∧ (s.arriveAll m e q l).src.views = s.src.views ∧
    (s.arriveAll m e q l).src.snapPending = s.src.snapPending ∧
    (s.arriveAll m e q l).src.snapDeferred = s.src.snapDeferred ∧
    (s.arriveAll m e q l).src.levelImage = s.src.levelImage ∧ (s.arriveAll m e q l).line = s.line ∧
    (s.arriveAll m e q l).ring.programs = s.ring.programs ∧ (s.arriveAll m e q l).group = s.group ∧
    (s.arriveAll m e q l).recorder = s.recorder ∧ (s.arriveAll m e q l).path.base = s.path.base ∧
    (s.arriveAll m e q l).path.decodeEn = s.path.decodeEn ∧
    (s.arriveAll m e q l).path.resetAsserted = s.path.resetAsserted ∧
    (s.arriveAll m e q l).path.queues = s.path.queues ∧
    (s.arriveAll m e q l).path.partialWrites = s.path.partialWrites ∧
    (s.arriveAll m e q l).path.memoryFaults = s.path.memoryFaults ∧
    (s.arriveAll m e q l).path.faultMark = s.path.faultMark ∧
    (s.arriveAll m e q l).path.fwdWait = s.path.fwdWait ∧
    (s.arriveAll m e q l).path.presented = s.path.presented ∧
    (s.arriveAll m e q l).path.lastOwn = s.path.lastOwn ∧
    (s.arriveAll m e q l).path.returned = s.path.returned ∧ (s.arriveAll m e q l).plan = s.plan ∧
    (s.arriveAll m e q l).notice.imagePending = s.notice.imagePending ∧
    (s.arriveAll m e q l).notice.imageDeferred = s.notice.imageDeferred ∧
    (s.arriveAll m e q l).notice.image = s.notice.image ∧ (s.arriveAll m e q l).mem = s.mem ∧
    (s.arriveAll m e q l).pending = s.pending := by
  induction l generalizing s with
  | nil => simp [State.arriveAll]
  | cons x rest ih => simp [State.arriveAll, ih]

@[simp] theorem State.breakGathers_frame (s : State) (l : List Nat) :
    (s.breakGathers l).src.F = s.src.F ∧ (s.breakGathers l).src.lag = s.src.lag ∧
    (s.breakGathers l).src.clockLost = s.src.clockLost ∧ (s.breakGathers l).src.views = s.src.views ∧
    (s.breakGathers l).src.turrets = s.src.turrets ∧ (s.breakGathers l).src.snapPending = s.src.snapPending ∧
    (s.breakGathers l).src.snapDeferred = s.src.snapDeferred ∧
    (s.breakGathers l).src.levelImage = s.src.levelImage ∧ (s.breakGathers l).mix = s.mix ∧
    (s.breakGathers l).line = s.line ∧ (s.breakGathers l).ring = s.ring ∧ (s.breakGathers l).group = s.group ∧
    (s.breakGathers l).recorder = s.recorder ∧ (s.breakGathers l).path = s.path ∧
    (s.breakGathers l).plan = s.plan ∧ (s.breakGathers l).notice = s.notice ∧ (s.breakGathers l).mem = s.mem ∧
    (s.breakGathers l).pending = s.pending := by
  induction l generalizing s with
  | nil => simp [State.breakGathers]
  | cons x rest ih => simp [State.breakGathers, ih]

@[simp] theorem State.gatherWrite_frame (s : State) (m v g q j : Nat) (d : Burst) :
    (s.gatherWrite m v g q j d).src.F = s.src.F ∧ (s.gatherWrite m v g q j d).src.lag = s.src.lag ∧
    (s.gatherWrite m v g q j d).src.clockLost = s.src.clockLost ∧
    (s.gatherWrite m v g q j d).src.snapPending = s.src.snapPending ∧
    (s.gatherWrite m v g q j d).src.snapDeferred = s.src.snapDeferred ∧
    (s.gatherWrite m v g q j d).src.levelImage = s.src.levelImage ∧ (s.gatherWrite m v g q j d).line = s.line ∧
    (s.gatherWrite m v g q j d).ring.programs = s.ring.programs ∧ (s.gatherWrite m v g q j d).group = s.group ∧
    (s.gatherWrite m v g q j d).recorder = s.recorder ∧ (s.gatherWrite m v g q j d).path.base = s.path.base ∧
    (s.gatherWrite m v g q j d).path.decodeEn = s.path.decodeEn ∧
    (s.gatherWrite m v g q j d).path.resetAsserted = s.path.resetAsserted ∧
    (s.gatherWrite m v g q j d).path.partialWrites = s.path.partialWrites ∧
    (s.gatherWrite m v g q j d).path.memoryFaults = s.path.memoryFaults ∧
    (s.gatherWrite m v g q j d).path.faultMark = s.path.faultMark ∧
    (s.gatherWrite m v g q j d).path.fwdWait = s.path.fwdWait ∧
    (s.gatherWrite m v g q j d).path.presented = s.path.presented ∧
    (s.gatherWrite m v g q j d).path.lastOwn = s.path.lastOwn ∧ (s.gatherWrite m v g q j d).plan = s.plan ∧
    (s.gatherWrite m v g q j d).notice.imagePending = s.notice.imagePending ∧
    (s.gatherWrite m v g q j d).notice.imageDeferred = s.notice.imageDeferred ∧
    (s.gatherWrite m v g q j d).notice.image = s.notice.image ∧ (s.gatherWrite m v g q j d).mem = s.mem ∧
    (s.gatherWrite m v g q j d).pending = s.pending := by
  simp only [State.gatherWrite]; (repeat' split) <;> simp

@[simp] theorem State.closeSources_frame (s : State) :
    (s.closeSources).src.F = s.src.F ∧ (s.closeSources).src.lag = s.src.lag ∧
    (s.closeSources).src.clockLost = s.src.clockLost ∧ (s.closeSources).src.views = s.src.views ∧
    (s.closeSources).src.turrets = s.src.turrets ∧ (s.closeSources).src.snapPending = s.src.snapPending ∧
    (s.closeSources).src.snapDeferred = s.src.snapDeferred ∧
    (s.closeSources).src.levelImage = s.src.levelImage ∧ (s.closeSources).mix = s.mix ∧
    (s.closeSources).line = s.line ∧ (s.closeSources).ring = s.ring ∧ (s.closeSources).group = s.group ∧
    (s.closeSources).recorder = s.recorder ∧ (s.closeSources).path.base = s.path.base ∧
    (s.closeSources).path.decodeEn = s.path.decodeEn ∧
    (s.closeSources).path.resetAsserted = s.path.resetAsserted ∧ (s.closeSources).path.queues = s.path.queues ∧
    (s.closeSources).path.partialWrites = s.path.partialWrites ∧
    (s.closeSources).path.memoryFaults = s.path.memoryFaults ∧
    (s.closeSources).path.faultMark = s.path.faultMark ∧ (s.closeSources).path.fwdWait = s.path.fwdWait ∧
    (s.closeSources).path.presented = s.path.presented ∧ (s.closeSources).path.lastOwn = s.path.lastOwn ∧
    (s.closeSources).path.returned = s.path.returned ∧ (s.closeSources).plan = s.plan ∧
    (s.closeSources).notice.imagePending = s.notice.imagePending ∧
    (s.closeSources).notice.imageDeferred = s.notice.imageDeferred ∧
    (s.closeSources).notice.image = s.notice.image ∧ (s.closeSources).mem = s.mem ∧
    (s.closeSources).pending = s.pending := by
  simp [State.closeSources]

@[simp] theorem State.loseTurret_frame (s : State) (t : Nat) :
    (s.loseTurret t).src.F = s.src.F ∧ (s.loseTurret t).src.lag = s.src.lag ∧
    (s.loseTurret t).src.clockLost = s.src.clockLost ∧ (s.loseTurret t).src.views = s.src.views ∧
    (s.loseTurret t).src.sources = s.src.sources ∧ (s.loseTurret t).src.snapPending = s.src.snapPending ∧
    (s.loseTurret t).src.snapDeferred = s.src.snapDeferred ∧
    (s.loseTurret t).src.levelImage = s.src.levelImage ∧ (s.loseTurret t).ring.programs = s.ring.programs ∧
    (s.loseTurret t).recorder.status = s.recorder.status ∧ (s.loseTurret t).recorder.cap = s.recorder.cap ∧
    (s.loseTurret t).recorder.producer = s.recorder.producer ∧
    (s.loseTurret t).recorder.consumer = s.recorder.consumer ∧
    (s.loseTurret t).recorder.seconds = s.recorder.seconds ∧
    (s.loseTurret t).recorder.frameInSecond = s.recorder.frameInSecond ∧
    (s.loseTurret t).recorder.fresh = s.recorder.fresh ∧ (s.loseTurret t).recorder.staged = s.recorder.staged ∧
    (s.loseTurret t).recorder.records.map PendingRecord.core = s.recorder.records.map PendingRecord.core ∧
    (s.loseTurret t).recorder.batches = s.recorder.batches ∧ (s.loseTurret t).path.base = s.path.base ∧
    (s.loseTurret t).path.decodeEn = s.path.decodeEn ∧
    (s.loseTurret t).path.resetAsserted = s.path.resetAsserted ∧ (s.loseTurret t).path.queues = s.path.queues ∧
    (s.loseTurret t).path.partialWrites = s.path.partialWrites ∧
    (s.loseTurret t).path.memoryFaults = s.path.memoryFaults ∧
    (s.loseTurret t).path.faultMark = s.path.faultMark ∧ (s.loseTurret t).path.fwdWait = s.path.fwdWait ∧
    (s.loseTurret t).path.presented = s.path.presented ∧ (s.loseTurret t).path.lastOwn = s.path.lastOwn ∧
    (s.loseTurret t).path.returned = s.path.returned ∧ (s.loseTurret t).plan = s.plan ∧
    (s.loseTurret t).notice.imagePending = s.notice.imagePending ∧
    (s.loseTurret t).notice.imageDeferred = s.notice.imageDeferred ∧
    (s.loseTurret t).notice.image = s.notice.image ∧ (s.loseTurret t).mem = s.mem ∧
    (s.loseTurret t).pending = s.pending := by
  simp [State.loseTurret]

@[simp] theorem State.takeLoss_frame (s : State) (k t : Nat) :
    (s.takeLoss k t).src.F = s.src.F ∧ (s.takeLoss k t).src.lag = s.src.lag ∧
    (s.takeLoss k t).src.clockLost = s.src.clockLost ∧ (s.takeLoss k t).src.views = s.src.views ∧
    (s.takeLoss k t).src.sources = s.src.sources ∧ (s.takeLoss k t).src.snapPending = s.src.snapPending ∧
    (s.takeLoss k t).src.snapDeferred = s.src.snapDeferred ∧
    (s.takeLoss k t).src.levelImage = s.src.levelImage ∧ (s.takeLoss k t).ring.programs = s.ring.programs ∧
    (s.takeLoss k t).recorder.status = s.recorder.status ∧ (s.takeLoss k t).recorder.cap = s.recorder.cap ∧
    (s.takeLoss k t).recorder.producer = s.recorder.producer ∧
    (s.takeLoss k t).recorder.consumer = s.recorder.consumer ∧
    (s.takeLoss k t).recorder.seconds = s.recorder.seconds ∧
    (s.takeLoss k t).recorder.frameInSecond = s.recorder.frameInSecond ∧
    (s.takeLoss k t).recorder.fresh = s.recorder.fresh ∧ (s.takeLoss k t).recorder.staged = s.recorder.staged ∧
    (s.takeLoss k t).recorder.records.map PendingRecord.core = s.recorder.records.map PendingRecord.core ∧
    (s.takeLoss k t).recorder.batches = s.recorder.batches ∧ (s.takeLoss k t).path.base = s.path.base ∧
    (s.takeLoss k t).path.decodeEn = s.path.decodeEn ∧
    (s.takeLoss k t).path.resetAsserted = s.path.resetAsserted ∧ (s.takeLoss k t).path.queues = s.path.queues ∧
    (s.takeLoss k t).path.partialWrites = s.path.partialWrites ∧
    (s.takeLoss k t).path.memoryFaults = s.path.memoryFaults ∧
    (s.takeLoss k t).path.faultMark = s.path.faultMark ∧ (s.takeLoss k t).path.fwdWait = s.path.fwdWait ∧
    (s.takeLoss k t).path.presented = s.path.presented ∧ (s.takeLoss k t).path.lastOwn = s.path.lastOwn ∧
    (s.takeLoss k t).path.returned = s.path.returned ∧ (s.takeLoss k t).plan = s.plan ∧
    (s.takeLoss k t).notice.imagePending = s.notice.imagePending ∧
    (s.takeLoss k t).notice.imageDeferred = s.notice.imageDeferred ∧
    (s.takeLoss k t).notice.image = s.notice.image ∧ (s.takeLoss k t).mem = s.mem ∧
    (s.takeLoss k t).pending = s.pending := by
  simp only [State.takeLoss]; (repeat' split) <;> simp

@[simp] theorem State.takeLosses_frame (s : State) (k : Nat) (l : List Nat) :
    (s.takeLosses k l).src.F = s.src.F ∧ (s.takeLosses k l).src.lag = s.src.lag ∧
    (s.takeLosses k l).src.clockLost = s.src.clockLost ∧ (s.takeLosses k l).src.views = s.src.views ∧
    (s.takeLosses k l).src.sources = s.src.sources ∧ (s.takeLosses k l).src.snapPending = s.src.snapPending ∧
    (s.takeLosses k l).src.snapDeferred = s.src.snapDeferred ∧
    (s.takeLosses k l).src.levelImage = s.src.levelImage ∧ (s.takeLosses k l).ring.programs = s.ring.programs ∧
    (s.takeLosses k l).recorder.status = s.recorder.status ∧ (s.takeLosses k l).recorder.cap = s.recorder.cap ∧
    (s.takeLosses k l).recorder.producer = s.recorder.producer ∧
    (s.takeLosses k l).recorder.consumer = s.recorder.consumer ∧
    (s.takeLosses k l).recorder.seconds = s.recorder.seconds ∧
    (s.takeLosses k l).recorder.frameInSecond = s.recorder.frameInSecond ∧
    (s.takeLosses k l).recorder.fresh = s.recorder.fresh ∧
    (s.takeLosses k l).recorder.staged = s.recorder.staged ∧
    (s.takeLosses k l).recorder.records.map PendingRecord.core = s.recorder.records.map PendingRecord.core ∧
    (s.takeLosses k l).recorder.batches = s.recorder.batches ∧ (s.takeLosses k l).path.base = s.path.base ∧
    (s.takeLosses k l).path.decodeEn = s.path.decodeEn ∧
    (s.takeLosses k l).path.resetAsserted = s.path.resetAsserted ∧
    (s.takeLosses k l).path.queues = s.path.queues ∧
    (s.takeLosses k l).path.partialWrites = s.path.partialWrites ∧
    (s.takeLosses k l).path.memoryFaults = s.path.memoryFaults ∧
    (s.takeLosses k l).path.faultMark = s.path.faultMark ∧ (s.takeLosses k l).path.fwdWait = s.path.fwdWait ∧
    (s.takeLosses k l).path.presented = s.path.presented ∧ (s.takeLosses k l).path.lastOwn = s.path.lastOwn ∧
    (s.takeLosses k l).path.returned = s.path.returned ∧ (s.takeLosses k l).plan = s.plan ∧
    (s.takeLosses k l).notice.imagePending = s.notice.imagePending ∧
    (s.takeLosses k l).notice.imageDeferred = s.notice.imageDeferred ∧
    (s.takeLosses k l).notice.image = s.notice.image ∧ (s.takeLosses k l).mem = s.mem ∧
    (s.takeLosses k l).pending = s.pending := by
  induction l generalizing s with
  | nil => simp [State.takeLosses]
  | cons x rest ih => simp [State.takeLosses, ih]

@[simp] theorem State.applyView_frame (s : State) (v : Nat) (r : ViewRec) :
    (s.applyView v r).src.F = s.src.F ∧ (s.applyView v r).src.lag = s.src.lag ∧
    (s.applyView v r).src.clockLost = s.src.clockLost ∧ (s.applyView v r).src.sources = s.src.sources ∧
    (s.applyView v r).src.turrets = s.src.turrets ∧ (s.applyView v r).src.snapPending = s.src.snapPending ∧
    (s.applyView v r).src.snapDeferred = s.src.snapDeferred ∧
    (s.applyView v r).src.levelImage = s.src.levelImage ∧ (s.applyView v r).mix = s.mix ∧
    (s.applyView v r).line = s.line ∧ (s.applyView v r).ring = s.ring ∧ (s.applyView v r).group = s.group ∧
    (s.applyView v r).recorder = s.recorder ∧ (s.applyView v r).path = s.path ∧
    (s.applyView v r).plan = s.plan ∧ (s.applyView v r).notice = s.notice ∧ (s.applyView v r).mem = s.mem ∧
    (s.applyView v r).pending = s.pending := by
  simp only [State.applyView]; (repeat' split) <;> simp

@[simp] theorem State.applySource_frame (s : State) (i : Nat) (r : SourceRec) :
    (s.applySource i r).src.F = s.src.F ∧ (s.applySource i r).src.lag = s.src.lag ∧
    (s.applySource i r).src.clockLost = s.src.clockLost ∧ (s.applySource i r).src.views = s.src.views ∧
    (s.applySource i r).src.turrets = s.src.turrets ∧ (s.applySource i r).src.snapPending = s.src.snapPending ∧
    (s.applySource i r).src.snapDeferred = s.src.snapDeferred ∧
    (s.applySource i r).src.levelImage = s.src.levelImage ∧ (s.applySource i r).mix = s.mix ∧
    (s.applySource i r).line = s.line ∧ (s.applySource i r).ring = s.ring ∧
    (s.applySource i r).group = s.group ∧ (s.applySource i r).recorder = s.recorder ∧
    (s.applySource i r).path.base = s.path.base ∧ (s.applySource i r).path.decodeEn = s.path.decodeEn ∧
    (s.applySource i r).path.resetAsserted = s.path.resetAsserted ∧
    (s.applySource i r).path.queues = s.path.queues ∧
    (s.applySource i r).path.partialWrites = s.path.partialWrites ∧
    (s.applySource i r).path.memoryFaults = s.path.memoryFaults ∧
    (s.applySource i r).path.faultMark = s.path.faultMark ∧ (s.applySource i r).path.fwdWait = s.path.fwdWait ∧
    (s.applySource i r).path.presented = s.path.presented ∧ (s.applySource i r).path.lastOwn = s.path.lastOwn ∧
    (s.applySource i r).path.returned = s.path.returned ∧ (s.applySource i r).plan = s.plan ∧
    (s.applySource i r).notice.imagePending = s.notice.imagePending ∧
    (s.applySource i r).notice.imageDeferred = s.notice.imageDeferred ∧
    (s.applySource i r).notice.image = s.notice.image ∧ (s.applySource i r).mem = s.mem ∧
    (s.applySource i r).pending = s.pending := by
  simp [State.applySource]

@[simp] theorem State.applyTurret_frame (s : State) (t : Nat) (r : TurretRec) :
    (s.applyTurret t r).src.F = s.src.F ∧ (s.applyTurret t r).src.lag = s.src.lag ∧
    (s.applyTurret t r).src.clockLost = s.src.clockLost ∧ (s.applyTurret t r).src.views = s.src.views ∧
    (s.applyTurret t r).src.sources = s.src.sources ∧ (s.applyTurret t r).src.snapPending = s.src.snapPending ∧
    (s.applyTurret t r).src.snapDeferred = s.src.snapDeferred ∧
    (s.applyTurret t r).src.levelImage = s.src.levelImage ∧ (s.applyTurret t r).line = s.line ∧
    (s.applyTurret t r).ring.programs = s.ring.programs ∧ (s.applyTurret t r).group = s.group ∧
    (s.applyTurret t r).recorder = s.recorder ∧ (s.applyTurret t r).path = s.path ∧
    (s.applyTurret t r).plan = s.plan ∧ (s.applyTurret t r).notice = s.notice ∧
    (s.applyTurret t r).mem = s.mem ∧ (s.applyTurret t r).pending = s.pending := by
  simp only [State.applyTurret]; (repeat' split) <;> simp

end Sys2Proof.Machine
end

