-- ==== Sys2Proof/Laws/PlanFrames.lean ====
section
/-!
SUPPORT. The frames of the plan unit (Machine/PlanUnit.lean). Each lemma says which parts of the state an
operation leaves as they were, so that no later proof unfolds it for that.
-/

namespace Sys2Proof.Machine

@[simp] theorem State.takePlan_frame (s : State) (r : Nat) (d : Burst) :
    (s.takePlan r d).src = s.src ∧ (s.takePlan r d).mix = s.mix ∧ (s.takePlan r d).line = s.line ∧
    (s.takePlan r d).ring = s.ring ∧ (s.takePlan r d).group = s.group ∧ (s.takePlan r d).recorder = s.recorder ∧
    (s.takePlan r d).path.base = s.path.base ∧ (s.takePlan r d).path.decodeEn = s.path.decodeEn ∧
    (s.takePlan r d).path.resetAsserted = s.path.resetAsserted ∧ (s.takePlan r d).path.queues = s.path.queues ∧
    (s.takePlan r d).path.partialWrites = s.path.partialWrites ∧
    (s.takePlan r d).path.memoryFaults = s.path.memoryFaults ∧
    (s.takePlan r d).path.faultMark = s.path.faultMark ∧ (s.takePlan r d).path.fwdWait = s.path.fwdWait ∧
    (s.takePlan r d).path.presented = s.path.presented ∧ (s.takePlan r d).path.lastOwn = s.path.lastOwn ∧
    (s.takePlan r d).path.returned = s.path.returned ∧ (s.takePlan r d).plan.floor = s.plan.floor ∧
    (s.takePlan r d).plan.clears = s.plan.clears ∧ (s.takePlan r d).plan.restart = s.plan.restart ∧
    (s.takePlan r d).notice.imagePending = s.notice.imagePending ∧
    (s.takePlan r d).notice.imageDeferred = s.notice.imageDeferred ∧
    (s.takePlan r d).notice.image = s.notice.image ∧ (s.takePlan r d).mem = s.mem ∧
    (s.takePlan r d).pending = s.pending := by
  simp only [State.takePlan]; (repeat' split) <;> simp

@[simp] theorem State.takePartialPlan_frame (s : State) (r : Nat) (d : Burst) (en : Enables) :
    (s.takePartialPlan r d en).src = s.src ∧ (s.takePartialPlan r d en).mix = s.mix ∧
    (s.takePartialPlan r d en).line = s.line ∧ (s.takePartialPlan r d en).ring = s.ring ∧
    (s.takePartialPlan r d en).group = s.group ∧ (s.takePartialPlan r d en).recorder = s.recorder ∧
    (s.takePartialPlan r d en).path.base = s.path.base ∧
    (s.takePartialPlan r d en).path.decodeEn = s.path.decodeEn ∧
    (s.takePartialPlan r d en).path.resetAsserted = s.path.resetAsserted ∧
    (s.takePartialPlan r d en).path.queues = s.path.queues ∧
    (s.takePartialPlan r d en).path.partialWrites = s.path.partialWrites ∧
    (s.takePartialPlan r d en).path.memoryFaults = s.path.memoryFaults ∧
    (s.takePartialPlan r d en).path.faultMark = s.path.faultMark ∧
    (s.takePartialPlan r d en).path.fwdWait = s.path.fwdWait ∧
    (s.takePartialPlan r d en).path.presented = s.path.presented ∧
    (s.takePartialPlan r d en).path.lastOwn = s.path.lastOwn ∧
    (s.takePartialPlan r d en).path.returned = s.path.returned ∧ (s.takePartialPlan r d en).plan = s.plan ∧
    (s.takePartialPlan r d en).notice.imagePending = s.notice.imagePending ∧
    (s.takePartialPlan r d en).notice.imageDeferred = s.notice.imageDeferred ∧
    (s.takePartialPlan r d en).notice.image = s.notice.image ∧ (s.takePartialPlan r d en).mem = s.mem ∧
    (s.takePartialPlan r d en).pending = s.pending := by
  simp [State.takePartialPlan]

@[simp] theorem State.applyRecipe_frame (s : State) (u : Nat) (r : RecipeRec) :
    ((s.applyRecipe u r).1).src = s.src ∧ ((s.applyRecipe u r).1).mix.buses = s.mix.buses ∧
    ((s.applyRecipe u r).1).mix.cache = s.mix.cache ∧ ((s.applyRecipe u r).1).mix.listens = s.mix.listens ∧
    ((s.applyRecipe u r).1).line = s.line ∧ ((s.applyRecipe u r).1).ring = s.ring ∧
    ((s.applyRecipe u r).1).group = s.group ∧ ((s.applyRecipe u r).1).recorder = s.recorder ∧
    ((s.applyRecipe u r).1).path = s.path ∧ ((s.applyRecipe u r).1).plan = s.plan ∧
    ((s.applyRecipe u r).1).notice = s.notice ∧ ((s.applyRecipe u r).1).mem = s.mem ∧
    ((s.applyRecipe u r).1).pending = s.pending := by
  simp only [State.applyRecipe]; (repeat' split) <;> simp

@[simp] theorem State.applyFloor_frame (s : State) (r : FloorRec) :
    (s.applyFloor r).src = s.src ∧ (s.applyFloor r).mix = s.mix ∧ (s.applyFloor r).line = s.line ∧
    (s.applyFloor r).ring = s.ring ∧ (s.applyFloor r).group = s.group ∧
    (s.applyFloor r).recorder.channels = s.recorder.channels ∧
    (s.applyFloor r).recorder.status = s.recorder.status ∧ (s.applyFloor r).recorder.cap = s.recorder.cap ∧
    (s.applyFloor r).recorder.producer = s.recorder.producer ∧
    (s.applyFloor r).recorder.consumer = s.recorder.consumer ∧
    (s.applyFloor r).recorder.seconds = s.recorder.seconds ∧
    (s.applyFloor r).recorder.frameInSecond = s.recorder.frameInSecond ∧
    (s.applyFloor r).recorder.staged = s.recorder.staged ∧
    (s.applyFloor r).recorder.records = s.recorder.records ∧
    (s.applyFloor r).recorder.batches = s.recorder.batches ∧ (s.applyFloor r).path = s.path ∧
    (s.applyFloor r).plan.staging = s.plan.staging ∧ (s.applyFloor r).plan.clears = s.plan.clears ∧
    (s.applyFloor r).plan.restart = s.plan.restart ∧ (s.applyFloor r).notice = s.notice ∧
    (s.applyFloor r).mem = s.mem ∧ (s.applyFloor r).pending = s.pending := by
  simp [State.applyFloor]

@[simp] theorem State.setTime_frame (s : State) (x : BitVec 32) :
    (s.setTime x).src = s.src ∧ (s.setTime x).mix = s.mix ∧ (s.setTime x).line = s.line ∧
    (s.setTime x).ring = s.ring ∧ (s.setTime x).group = s.group ∧
    (s.setTime x).recorder.channels = s.recorder.channels ∧ (s.setTime x).recorder.status = s.recorder.status ∧
    (s.setTime x).recorder.cap = s.recorder.cap ∧ (s.setTime x).recorder.producer = s.recorder.producer ∧
    (s.setTime x).recorder.consumer = s.recorder.consumer ∧
    (s.setTime x).recorder.seconds = s.recorder.seconds ∧
    (s.setTime x).recorder.frameInSecond = s.recorder.frameInSecond ∧
    (s.setTime x).recorder.fresh = s.recorder.fresh ∧ (s.setTime x).recorder.records = s.recorder.records ∧
    (s.setTime x).recorder.batches = s.recorder.batches ∧ (s.setTime x).path = s.path ∧
    (s.setTime x).plan = s.plan ∧ (s.setTime x).notice = s.notice ∧ (s.setTime x).mem = s.mem ∧
    (s.setTime x).pending = s.pending := by
  simp [State.setTime]

@[simp] theorem State.takeSnapshot_frame (s : State) (r : ReplyTo) :
    (s.takeSnapshot r).src.F = s.src.F ∧ (s.takeSnapshot r).src.lag = s.src.lag ∧
    (s.takeSnapshot r).src.clockLost = s.src.clockLost ∧ (s.takeSnapshot r).src.views = s.src.views ∧
    (s.takeSnapshot r).src.sources = s.src.sources ∧ (s.takeSnapshot r).src.turrets = s.src.turrets ∧
    (s.takeSnapshot r).src.levelImage = s.src.levelImage ∧ (s.takeSnapshot r).mix = s.mix ∧
    (s.takeSnapshot r).line = s.line ∧ (s.takeSnapshot r).ring = s.ring ∧ (s.takeSnapshot r).group = s.group ∧
    (s.takeSnapshot r).recorder = s.recorder ∧ (s.takeSnapshot r).path = s.path ∧
    (s.takeSnapshot r).plan = s.plan ∧ (s.takeSnapshot r).notice = s.notice ∧ (s.takeSnapshot r).mem = s.mem ∧
    (s.takeSnapshot r).pending = s.pending := by
  simp only [State.takeSnapshot]; (repeat' split) <;> simp

@[simp] theorem State.takeImage_frame (s : State) (r : ReplyTo) :
    (s.takeImage r).src = s.src ∧ (s.takeImage r).mix = s.mix ∧ (s.takeImage r).line = s.line ∧
    (s.takeImage r).ring = s.ring ∧ (s.takeImage r).group = s.group ∧ (s.takeImage r).recorder = s.recorder ∧
    (s.takeImage r).path = s.path ∧ (s.takeImage r).plan = s.plan ∧
    (s.takeImage r).notice.rings = s.notice.rings ∧ (s.takeImage r).notice.image = s.notice.image ∧
    (s.takeImage r).mem = s.mem ∧ (s.takeImage r).pending = s.pending := by
  simp only [State.takeImage]; (repeat' split) <;> simp

@[simp] theorem State.takeClear_frame (s : State) (r : ReplyTo) :
    (s.takeClear r).src = s.src ∧ (s.takeClear r).mix = s.mix ∧ (s.takeClear r).line = s.line ∧
    (s.takeClear r).ring = s.ring ∧ (s.takeClear r).group = s.group ∧ (s.takeClear r).recorder = s.recorder ∧
    (s.takeClear r).path = s.path ∧ (s.takeClear r).plan.staging = s.plan.staging ∧
    (s.takeClear r).plan.floor = s.plan.floor ∧ (s.takeClear r).plan.restart = s.plan.restart ∧
    (s.takeClear r).notice = s.notice ∧ (s.takeClear r).mem = s.mem ∧ (s.takeClear r).pending = s.pending := by
  simp [State.takeClear]

@[simp] theorem State.takeRestart_frame (s : State) (r : ReplyTo) :
    (s.takeRestart r).src = s.src ∧ (s.takeRestart r).mix = s.mix ∧ (s.takeRestart r).line = s.line ∧
    (s.takeRestart r).ring = s.ring ∧ (s.takeRestart r).group = s.group ∧
    (s.takeRestart r).recorder = s.recorder ∧ (s.takeRestart r).path = s.path ∧
    (s.takeRestart r).plan.staging = s.plan.staging ∧ (s.takeRestart r).plan.floor = s.plan.floor ∧
    (s.takeRestart r).plan.clears = s.plan.clears ∧ (s.takeRestart r).notice = s.notice ∧
    (s.takeRestart r).mem = s.mem ∧ (s.takeRestart r).pending = s.pending := by
  simp [State.takeRestart]

@[simp] theorem State.takeRecordConsumer_frame (s : State) (d : Burst) :
    (s.takeRecordConsumer d).src = s.src ∧ (s.takeRecordConsumer d).mix = s.mix ∧
    (s.takeRecordConsumer d).line = s.line ∧ (s.takeRecordConsumer d).ring = s.ring ∧
    (s.takeRecordConsumer d).group = s.group ∧
    (s.takeRecordConsumer d).recorder.channels = s.recorder.channels ∧
    (s.takeRecordConsumer d).recorder.status = s.recorder.status ∧
    (s.takeRecordConsumer d).recorder.cap = s.recorder.cap ∧
    (s.takeRecordConsumer d).recorder.producer = s.recorder.producer ∧
    (s.takeRecordConsumer d).recorder.seconds = s.recorder.seconds ∧
    (s.takeRecordConsumer d).recorder.frameInSecond = s.recorder.frameInSecond ∧
    (s.takeRecordConsumer d).recorder.fresh = s.recorder.fresh ∧
    (s.takeRecordConsumer d).recorder.staged = s.recorder.staged ∧
    (s.takeRecordConsumer d).recorder.records = s.recorder.records ∧
    (s.takeRecordConsumer d).recorder.batches = s.recorder.batches ∧ (s.takeRecordConsumer d).path = s.path ∧
    (s.takeRecordConsumer d).plan = s.plan ∧ (s.takeRecordConsumer d).notice = s.notice ∧
    (s.takeRecordConsumer d).mem = s.mem ∧ (s.takeRecordConsumer d).pending = s.pending := by
  simp only [State.takeRecordConsumer]; (repeat' split) <;> simp

@[simp] theorem State.takeNoticeConsumer_frame (s : State) (k : Nat) (d : Burst) :
    (s.takeNoticeConsumer k d).src = s.src ∧ (s.takeNoticeConsumer k d).mix = s.mix ∧
    (s.takeNoticeConsumer k d).line = s.line ∧ (s.takeNoticeConsumer k d).ring = s.ring ∧
    (s.takeNoticeConsumer k d).group = s.group ∧ (s.takeNoticeConsumer k d).recorder = s.recorder ∧
    (s.takeNoticeConsumer k d).path = s.path ∧ (s.takeNoticeConsumer k d).plan = s.plan ∧
    (s.takeNoticeConsumer k d).notice.imagePending = s.notice.imagePending ∧
    (s.takeNoticeConsumer k d).notice.imageDeferred = s.notice.imageDeferred ∧
    (s.takeNoticeConsumer k d).notice.image = s.notice.image ∧ (s.takeNoticeConsumer k d).mem = s.mem ∧
    (s.takeNoticeConsumer k d).pending = s.pending := by
  simp only [State.takeNoticeConsumer]; (repeat' split) <;> simp

end Sys2Proof.Machine
end

