-- ==== Sys2Proof/Laws/RecordFrames.lean ====
section
/-!
SUPPORT. The frames of the record unit and of the images (Machine/RecordUnit.lean, Machine/Images.lean). Each lemma says which parts
of the state an operation leaves as they were, so that no later proof unfolds it for that.
-/

namespace Sys2Proof.Machine

@[simp] theorem State.updateTime_frame (s : State) :
    (s.updateTime).src = s.src ∧ (s.updateTime).mix = s.mix ∧ (s.updateTime).line = s.line ∧
    (s.updateTime).ring = s.ring ∧ (s.updateTime).group = s.group ∧
    (s.updateTime).recorder.channels = s.recorder.channels ∧
    (s.updateTime).recorder.status = s.recorder.status ∧ (s.updateTime).recorder.cap = s.recorder.cap ∧
    (s.updateTime).recorder.producer = s.recorder.producer ∧
    (s.updateTime).recorder.consumer = s.recorder.consumer ∧
    (s.updateTime).recorder.records = s.recorder.records ∧
    (s.updateTime).recorder.batches = s.recorder.batches ∧ (s.updateTime).path = s.path ∧
    (s.updateTime).plan = s.plan ∧ (s.updateTime).notice = s.notice ∧ (s.updateTime).mem = s.mem ∧
    (s.updateTime).pending = s.pending := by
  cases h : s.plan.floor.timeMode <;> simp only [State.updateTime, RecordUnit.closeTime, RecordUnit.newSecond, h] <;> split <;> simp

@[simp] theorem State.secondStrobe_frame (s : State) :
    (s.secondStrobe).src = s.src ∧ (s.secondStrobe).mix = s.mix ∧ (s.secondStrobe).line = s.line ∧
    (s.secondStrobe).ring = s.ring ∧ (s.secondStrobe).group = s.group ∧
    (s.secondStrobe).recorder.channels = s.recorder.channels ∧
    (s.secondStrobe).recorder.status = s.recorder.status ∧ (s.secondStrobe).recorder.cap = s.recorder.cap ∧
    (s.secondStrobe).recorder.producer = s.recorder.producer ∧
    (s.secondStrobe).recorder.consumer = s.recorder.consumer ∧
    (s.secondStrobe).recorder.records = s.recorder.records ∧
    (s.secondStrobe).recorder.batches = s.recorder.batches ∧ (s.secondStrobe).path = s.path ∧
    (s.secondStrobe).plan = s.plan ∧ (s.secondStrobe).notice = s.notice ∧ (s.secondStrobe).mem = s.mem ∧
    (s.secondStrobe).pending = s.pending := by
  simp only [State.secondStrobe, RecordUnit.strobe, RecordUnit.newSecond]; split <;> simp

@[simp] theorem State.setRecorder_frame (s : State) (x : RecorderState) (c : Option Nat) (f : FrameNo) :
    (s.setRecorder x c f).src = s.src ∧ (s.setRecorder x c f).mix = s.mix ∧
    (s.setRecorder x c f).line = s.line ∧ (s.setRecorder x c f).ring = s.ring ∧
    (s.setRecorder x c f).group = s.group ∧ (s.setRecorder x c f).recorder.channels = s.recorder.channels ∧
    (s.setRecorder x c f).recorder.cap = s.recorder.cap ∧
    (s.setRecorder x c f).recorder.producer = s.recorder.producer ∧
    (s.setRecorder x c f).recorder.consumer = s.recorder.consumer ∧
    (s.setRecorder x c f).recorder.seconds = s.recorder.seconds ∧
    (s.setRecorder x c f).recorder.frameInSecond = s.recorder.frameInSecond ∧
    (s.setRecorder x c f).recorder.fresh = s.recorder.fresh ∧
    (s.setRecorder x c f).recorder.staged = s.recorder.staged ∧
    (s.setRecorder x c f).recorder.records = s.recorder.records ∧
    (s.setRecorder x c f).recorder.batches = s.recorder.batches ∧
    (s.setRecorder x c f).path.base = s.path.base ∧ (s.setRecorder x c f).path.decodeEn = s.path.decodeEn ∧
    (s.setRecorder x c f).path.resetAsserted = s.path.resetAsserted ∧
    (s.setRecorder x c f).path.queues = s.path.queues ∧
    (s.setRecorder x c f).path.partialWrites = s.path.partialWrites ∧
    (s.setRecorder x c f).path.memoryFaults = s.path.memoryFaults ∧
    (s.setRecorder x c f).path.faultMark = s.path.faultMark ∧
    (s.setRecorder x c f).path.fwdWait = s.path.fwdWait ∧
    (s.setRecorder x c f).path.presented = s.path.presented ∧
    (s.setRecorder x c f).path.lastOwn = s.path.lastOwn ∧
    (s.setRecorder x c f).path.returned = s.path.returned ∧ (s.setRecorder x c f).plan = s.plan ∧
    (s.setRecorder x c f).notice.imagePending = s.notice.imagePending ∧
    (s.setRecorder x c f).notice.imageDeferred = s.notice.imageDeferred ∧
    (s.setRecorder x c f).notice.image = s.notice.image ∧ (s.setRecorder x c f).mem = s.mem ∧
    (s.setRecorder x c f).pending = s.pending := by
  simp [State.setRecorder]

@[simp] theorem State.recover_frame (s : State) :
    (s.recover).src = s.src ∧ (s.recover).mix = s.mix ∧ (s.recover).line = s.line ∧ (s.recover).ring = s.ring ∧
    (s.recover).group = s.group ∧ (s.recover).recorder.channels = s.recorder.channels ∧
    (s.recover).recorder.cap = s.recorder.cap ∧ (s.recover).recorder.producer = s.recorder.producer ∧
    (s.recover).recorder.consumer = s.recorder.consumer ∧ (s.recover).recorder.seconds = s.recorder.seconds ∧
    (s.recover).recorder.frameInSecond = s.recorder.frameInSecond ∧
    (s.recover).recorder.fresh = s.recorder.fresh ∧ (s.recover).recorder.staged = s.recorder.staged ∧
    (s.recover).recorder.records = s.recorder.records ∧ (s.recover).recorder.batches = s.recorder.batches ∧
    (s.recover).path.base = s.path.base ∧ (s.recover).path.decodeEn = s.path.decodeEn ∧
    (s.recover).path.resetAsserted = s.path.resetAsserted ∧ (s.recover).path.queues = s.path.queues ∧
    (s.recover).path.partialWrites = s.path.partialWrites ∧
    (s.recover).path.memoryFaults = s.path.memoryFaults ∧ (s.recover).path.faultMark = s.path.faultMark ∧
    (s.recover).path.fwdWait = s.path.fwdWait ∧ (s.recover).path.presented = s.path.presented ∧
    (s.recover).path.lastOwn = s.path.lastOwn ∧ (s.recover).path.returned = s.path.returned ∧
    (s.recover).plan = s.plan ∧ (s.recover).notice.imagePending = s.notice.imagePending ∧
    (s.recover).notice.imageDeferred = s.notice.imageDeferred ∧ (s.recover).notice.image = s.notice.image ∧
    (s.recover).mem = s.mem ∧ (s.recover).pending = s.pending := by
  simp only [State.recover]; (repeat' split) <;> simp

@[simp] theorem State.listLine_frame (s : State) (b c n : Nat) :
    ((s.listLine b c n).1).src = s.src ∧ ((s.listLine b c n).1).mix.slots = s.mix.slots ∧
    ((s.listLine b c n).1).mix.buses = s.mix.buses ∧ ((s.listLine b c n).1).mix.listens = s.mix.listens ∧
    ((s.listLine b c n).1).line = s.line ∧ ((s.listLine b c n).1).ring = s.ring ∧
    ((s.listLine b c n).1).group = s.group ∧ ((s.listLine b c n).1).recorder = s.recorder ∧
    ((s.listLine b c n).1).path.base = s.path.base ∧ ((s.listLine b c n).1).path.decodeEn = s.path.decodeEn ∧
    ((s.listLine b c n).1).path.resetAsserted = s.path.resetAsserted ∧
    ((s.listLine b c n).1).path.queues = s.path.queues ∧
    ((s.listLine b c n).1).path.partialWrites = s.path.partialWrites ∧
    ((s.listLine b c n).1).path.memoryFaults = s.path.memoryFaults ∧
    ((s.listLine b c n).1).path.faultMark = s.path.faultMark ∧
    ((s.listLine b c n).1).path.fwdWait = s.path.fwdWait ∧
    ((s.listLine b c n).1).path.presented = s.path.presented ∧
    ((s.listLine b c n).1).path.lastOwn = s.path.lastOwn ∧
    ((s.listLine b c n).1).path.returned = s.path.returned ∧ ((s.listLine b c n).1).plan = s.plan ∧
    ((s.listLine b c n).1).notice = s.notice ∧ ((s.listLine b c n).1).mem = s.mem ∧
    ((s.listLine b c n).1).pending = s.pending := by
  simp [State.listLine]

@[simp] theorem State.listGroup_frame (s : State) (b c n : Nat) :
    ((s.listGroup b c n).1).src = s.src ∧ ((s.listGroup b c n).1).mix.slots = s.mix.slots ∧
    ((s.listGroup b c n).1).mix.buses = s.mix.buses ∧ ((s.listGroup b c n).1).mix.listens = s.mix.listens ∧
    ((s.listGroup b c n).1).line = s.line ∧ ((s.listGroup b c n).1).ring = s.ring ∧
    ((s.listGroup b c n).1).group = s.group ∧ ((s.listGroup b c n).1).recorder = s.recorder ∧
    ((s.listGroup b c n).1).path.base = s.path.base ∧ ((s.listGroup b c n).1).path.decodeEn = s.path.decodeEn ∧
    ((s.listGroup b c n).1).path.resetAsserted = s.path.resetAsserted ∧
    ((s.listGroup b c n).1).path.queues = s.path.queues ∧
    ((s.listGroup b c n).1).path.partialWrites = s.path.partialWrites ∧
    ((s.listGroup b c n).1).path.memoryFaults = s.path.memoryFaults ∧
    ((s.listGroup b c n).1).path.faultMark = s.path.faultMark ∧
    ((s.listGroup b c n).1).path.fwdWait = s.path.fwdWait ∧
    ((s.listGroup b c n).1).path.presented = s.path.presented ∧
    ((s.listGroup b c n).1).path.lastOwn = s.path.lastOwn ∧
    ((s.listGroup b c n).1).path.returned = s.path.returned ∧ ((s.listGroup b c n).1).plan = s.plan ∧
    ((s.listGroup b c n).1).notice = s.notice ∧ ((s.listGroup b c n).1).mem = s.mem ∧
    ((s.listGroup b c n).1).pending = s.pending := by
  simp [State.listGroup]

@[simp] theorem State.listChannel_frame (s : State) (b c : Nat) :
    (s.listChannel b c).src = s.src ∧ (s.listChannel b c).mix.slots = s.mix.slots ∧
    (s.listChannel b c).mix.buses = s.mix.buses ∧ (s.listChannel b c).mix.listens = s.mix.listens ∧
    (s.listChannel b c).line = s.line ∧ (s.listChannel b c).ring = s.ring ∧
    (s.listChannel b c).group = s.group ∧ (s.listChannel b c).recorder.channels = s.recorder.channels ∧
    (s.listChannel b c).recorder.status = s.recorder.status ∧
    (s.listChannel b c).recorder.cap = s.recorder.cap ∧
    (s.listChannel b c).recorder.producer = s.recorder.producer ∧
    (s.listChannel b c).recorder.consumer = s.recorder.consumer ∧
    (s.listChannel b c).recorder.seconds = s.recorder.seconds ∧
    (s.listChannel b c).recorder.frameInSecond = s.recorder.frameInSecond ∧
    (s.listChannel b c).recorder.fresh = s.recorder.fresh ∧
    (s.listChannel b c).recorder.staged = s.recorder.staged ∧
    (s.listChannel b c).recorder.batches = s.recorder.batches ∧ (s.listChannel b c).path.base = s.path.base ∧
    (s.listChannel b c).path.decodeEn = s.path.decodeEn ∧
    (s.listChannel b c).path.resetAsserted = s.path.resetAsserted ∧
    (s.listChannel b c).path.queues = s.path.queues ∧
    (s.listChannel b c).path.partialWrites = s.path.partialWrites ∧
    (s.listChannel b c).path.memoryFaults = s.path.memoryFaults ∧
    (s.listChannel b c).path.faultMark = s.path.faultMark ∧ (s.listChannel b c).path.fwdWait = s.path.fwdWait ∧
    (s.listChannel b c).path.presented = s.path.presented ∧ (s.listChannel b c).path.lastOwn = s.path.lastOwn ∧
    (s.listChannel b c).path.returned = s.path.returned ∧ (s.listChannel b c).plan = s.plan ∧
    (s.listChannel b c).notice = s.notice ∧ (s.listChannel b c).mem = s.mem ∧
    (s.listChannel b c).pending = s.pending := by
  simp only [State.listChannel]; (repeat' split) <;> simp

@[simp] theorem State.listChannels_frame (s : State) (b : Nat) (l : List Nat) :
    (s.listChannels b l).src = s.src ∧ (s.listChannels b l).mix.slots = s.mix.slots ∧
    (s.listChannels b l).mix.buses = s.mix.buses ∧ (s.listChannels b l).mix.listens = s.mix.listens ∧
    (s.listChannels b l).line = s.line ∧ (s.listChannels b l).ring = s.ring ∧
    (s.listChannels b l).group = s.group ∧ (s.listChannels b l).recorder.channels = s.recorder.channels ∧
    (s.listChannels b l).recorder.status = s.recorder.status ∧
    (s.listChannels b l).recorder.cap = s.recorder.cap ∧
    (s.listChannels b l).recorder.producer = s.recorder.producer ∧
    (s.listChannels b l).recorder.consumer = s.recorder.consumer ∧
    (s.listChannels b l).recorder.seconds = s.recorder.seconds ∧
    (s.listChannels b l).recorder.frameInSecond = s.recorder.frameInSecond ∧
    (s.listChannels b l).recorder.fresh = s.recorder.fresh ∧
    (s.listChannels b l).recorder.staged = s.recorder.staged ∧
    (s.listChannels b l).recorder.batches = s.recorder.batches ∧ (s.listChannels b l).path.base = s.path.base ∧
    (s.listChannels b l).path.decodeEn = s.path.decodeEn ∧
    (s.listChannels b l).path.resetAsserted = s.path.resetAsserted ∧
    (s.listChannels b l).path.queues = s.path.queues ∧
    (s.listChannels b l).path.partialWrites = s.path.partialWrites ∧
    (s.listChannels b l).path.memoryFaults = s.path.memoryFaults ∧
    (s.listChannels b l).path.faultMark = s.path.faultMark ∧
    (s.listChannels b l).path.fwdWait = s.path.fwdWait ∧
    (s.listChannels b l).path.presented = s.path.presented ∧
    (s.listChannels b l).path.lastOwn = s.path.lastOwn ∧ (s.listChannels b l).path.returned = s.path.returned ∧
    (s.listChannels b l).plan = s.plan ∧ (s.listChannels b l).notice = s.notice ∧
    (s.listChannels b l).mem = s.mem ∧ (s.listChannels b l).pending = s.pending := by
  induction l generalizing s with
  | nil => simp [State.listChannels]
  | cons x rest ih => simp [State.listChannels, ih]

@[simp] theorem State.listRecords_frame (s : State) :
    (s.listRecords).src = s.src ∧ (s.listRecords).mix.slots = s.mix.slots ∧
    (s.listRecords).mix.buses = s.mix.buses ∧ (s.listRecords).mix.listens = s.mix.listens ∧
    (s.listRecords).line = s.line ∧ (s.listRecords).ring = s.ring ∧ (s.listRecords).group = s.group ∧
    (s.listRecords).recorder.channels = s.recorder.channels ∧
    (s.listRecords).recorder.status = s.recorder.status ∧ (s.listRecords).recorder.cap = s.recorder.cap ∧
    (s.listRecords).recorder.producer = s.recorder.producer ∧
    (s.listRecords).recorder.consumer = s.recorder.consumer ∧
    (s.listRecords).recorder.seconds = s.recorder.seconds ∧
    (s.listRecords).recorder.frameInSecond = s.recorder.frameInSecond ∧
    (s.listRecords).recorder.fresh = s.recorder.fresh ∧ (s.listRecords).recorder.staged = s.recorder.staged ∧
    (s.listRecords).path.base = s.path.base ∧ (s.listRecords).path.decodeEn = s.path.decodeEn ∧
    (s.listRecords).path.resetAsserted = s.path.resetAsserted ∧ (s.listRecords).path.queues = s.path.queues ∧
    (s.listRecords).path.partialWrites = s.path.partialWrites ∧
    (s.listRecords).path.memoryFaults = s.path.memoryFaults ∧
    (s.listRecords).path.faultMark = s.path.faultMark ∧ (s.listRecords).path.fwdWait = s.path.fwdWait ∧
    (s.listRecords).path.presented = s.path.presented ∧ (s.listRecords).path.lastOwn = s.path.lastOwn ∧
    (s.listRecords).path.returned = s.path.returned ∧ (s.listRecords).plan = s.plan ∧
    (s.listRecords).notice = s.notice ∧ (s.listRecords).mem = s.mem ∧ (s.listRecords).pending = s.pending := by
  simp only [State.listRecords]; (repeat' split) <;> simp

@[simp] theorem State.setDropped_frame (s : State) (r : PendingRecord) (n : Nat) :
    (s.setDropped r n).src = s.src ∧ (s.setDropped r n).mix = s.mix ∧ (s.setDropped r n).line = s.line ∧
    (s.setDropped r n).ring = s.ring ∧ (s.setDropped r n).group = s.group ∧
    (s.setDropped r n).recorder.status = s.recorder.status ∧ (s.setDropped r n).recorder.cap = s.recorder.cap ∧
    (s.setDropped r n).recorder.producer = s.recorder.producer ∧
    (s.setDropped r n).recorder.consumer = s.recorder.consumer ∧
    (s.setDropped r n).recorder.seconds = s.recorder.seconds ∧
    (s.setDropped r n).recorder.frameInSecond = s.recorder.frameInSecond ∧
    (s.setDropped r n).recorder.fresh = s.recorder.fresh ∧
    (s.setDropped r n).recorder.staged = s.recorder.staged ∧
    (s.setDropped r n).recorder.records = s.recorder.records ∧
    (s.setDropped r n).recorder.batches = s.recorder.batches ∧ (s.setDropped r n).path = s.path ∧
    (s.setDropped r n).plan = s.plan ∧ (s.setDropped r n).notice = s.notice ∧ (s.setDropped r n).mem = s.mem ∧
    (s.setDropped r n).pending = s.pending := by
  simp only [State.setDropped]; (repeat' split) <;> simp

@[simp] theorem State.writeRecord_frame (s : State) (r : PendingRecord) :
    (s.writeRecord r).src = s.src ∧ (s.writeRecord r).mix = s.mix ∧ (s.writeRecord r).line = s.line ∧
    (s.writeRecord r).ring = s.ring ∧ (s.writeRecord r).group = s.group ∧
    (s.writeRecord r).recorder.status = s.recorder.status ∧ (s.writeRecord r).recorder.cap = s.recorder.cap ∧
    (s.writeRecord r).recorder.consumer = s.recorder.consumer ∧
    (s.writeRecord r).recorder.seconds = s.recorder.seconds ∧
    (s.writeRecord r).recorder.frameInSecond = s.recorder.frameInSecond ∧
    (s.writeRecord r).recorder.fresh = s.recorder.fresh ∧
    (s.writeRecord r).recorder.staged = s.recorder.staged ∧
    (s.writeRecord r).recorder.records = s.recorder.records ∧ (s.writeRecord r).path.base = s.path.base ∧
    (s.writeRecord r).path.decodeEn = s.path.decodeEn ∧
    (s.writeRecord r).path.resetAsserted = s.path.resetAsserted ∧
    (s.writeRecord r).path.queues = s.path.queues ∧
    (s.writeRecord r).path.partialWrites = s.path.partialWrites ∧
    (s.writeRecord r).path.memoryFaults = s.path.memoryFaults ∧
    (s.writeRecord r).path.faultMark = s.path.faultMark ∧ (s.writeRecord r).path.fwdWait = s.path.fwdWait ∧
    (s.writeRecord r).path.presented = s.path.presented ∧ (s.writeRecord r).path.lastOwn = s.path.lastOwn ∧
    (s.writeRecord r).path.returned = s.path.returned ∧ (s.writeRecord r).plan = s.plan ∧
    (s.writeRecord r).notice = s.notice ∧ (s.writeRecord r).mem = s.mem ∧
    (s.writeRecord r).pending = s.pending := by
  simp [State.writeRecord]

@[simp] theorem State.dropRecord_frame (s : State) (r : PendingRecord) :
    (s.dropRecord r).src = s.src ∧ (s.dropRecord r).mix = s.mix ∧ (s.dropRecord r).line = s.line ∧
    (s.dropRecord r).ring = s.ring ∧ (s.dropRecord r).group = s.group ∧
    (s.dropRecord r).recorder.cap = s.recorder.cap ∧ (s.dropRecord r).recorder.producer = s.recorder.producer ∧
    (s.dropRecord r).recorder.consumer = s.recorder.consumer ∧
    (s.dropRecord r).recorder.seconds = s.recorder.seconds ∧
    (s.dropRecord r).recorder.frameInSecond = s.recorder.frameInSecond ∧
    (s.dropRecord r).recorder.fresh = s.recorder.fresh ∧ (s.dropRecord r).recorder.staged = s.recorder.staged ∧
    (s.dropRecord r).recorder.records = s.recorder.records ∧
    (s.dropRecord r).recorder.batches = s.recorder.batches ∧ (s.dropRecord r).path.base = s.path.base ∧
    (s.dropRecord r).path.decodeEn = s.path.decodeEn ∧
    (s.dropRecord r).path.resetAsserted = s.path.resetAsserted ∧ (s.dropRecord r).path.queues = s.path.queues ∧
    (s.dropRecord r).path.partialWrites = s.path.partialWrites ∧
    (s.dropRecord r).path.memoryFaults = s.path.memoryFaults ∧
    (s.dropRecord r).path.faultMark = s.path.faultMark ∧ (s.dropRecord r).path.fwdWait = s.path.fwdWait ∧
    (s.dropRecord r).path.presented = s.path.presented ∧ (s.dropRecord r).path.lastOwn = s.path.lastOwn ∧
    (s.dropRecord r).path.returned = s.path.returned ∧ (s.dropRecord r).plan = s.plan ∧
    (s.dropRecord r).notice.imagePending = s.notice.imagePending ∧
    (s.dropRecord r).notice.imageDeferred = s.notice.imageDeferred ∧
    (s.dropRecord r).notice.image = s.notice.image ∧ (s.dropRecord r).mem = s.mem ∧
    (s.dropRecord r).pending = s.pending := by
  simp only [State.dropRecord]; (repeat' split) <;> simp

@[simp] theorem State.placeFirst_frame (s : State) :
    (s.placeFirst).src = s.src ∧ (s.placeFirst).mix = s.mix ∧ (s.placeFirst).line = s.line ∧
    (s.placeFirst).ring = s.ring ∧ (s.placeFirst).group = s.group ∧
    (s.placeFirst).recorder.cap = s.recorder.cap ∧ (s.placeFirst).recorder.consumer = s.recorder.consumer ∧
    (s.placeFirst).recorder.seconds = s.recorder.seconds ∧
    (s.placeFirst).recorder.frameInSecond = s.recorder.frameInSecond ∧
    (s.placeFirst).recorder.fresh = s.recorder.fresh ∧ (s.placeFirst).recorder.staged = s.recorder.staged ∧
    (s.placeFirst).path.base = s.path.base ∧ (s.placeFirst).path.decodeEn = s.path.decodeEn ∧
    (s.placeFirst).path.resetAsserted = s.path.resetAsserted ∧ (s.placeFirst).path.queues = s.path.queues ∧
    (s.placeFirst).path.partialWrites = s.path.partialWrites ∧
    (s.placeFirst).path.memoryFaults = s.path.memoryFaults ∧ (s.placeFirst).path.faultMark = s.path.faultMark ∧
    (s.placeFirst).path.fwdWait = s.path.fwdWait ∧ (s.placeFirst).path.presented = s.path.presented ∧
    (s.placeFirst).path.lastOwn = s.path.lastOwn ∧ (s.placeFirst).path.returned = s.path.returned ∧
    (s.placeFirst).plan = s.plan ∧ (s.placeFirst).notice.imagePending = s.notice.imagePending ∧
    (s.placeFirst).notice.imageDeferred = s.notice.imageDeferred ∧
    (s.placeFirst).notice.image = s.notice.image ∧ (s.placeFirst).mem = s.mem ∧
    (s.placeFirst).pending = s.pending := by
  simp only [State.placeFirst, RecordUnit.prune]; (repeat' split) <;> simp

@[simp] theorem State.writeRecordProgress_frame (s : State) (b : Batch) :
    (s.writeRecordProgress b).src = s.src ∧ (s.writeRecordProgress b).mix = s.mix ∧
    (s.writeRecordProgress b).line = s.line ∧ (s.writeRecordProgress b).ring = s.ring ∧
    (s.writeRecordProgress b).group = s.group ∧
    (s.writeRecordProgress b).recorder.channels = s.recorder.channels ∧
    (s.writeRecordProgress b).recorder.status = s.recorder.status ∧
    (s.writeRecordProgress b).recorder.cap = s.recorder.cap ∧
    (s.writeRecordProgress b).recorder.producer = s.recorder.producer ∧
    (s.writeRecordProgress b).recorder.consumer = s.recorder.consumer ∧
    (s.writeRecordProgress b).recorder.seconds = s.recorder.seconds ∧
    (s.writeRecordProgress b).recorder.frameInSecond = s.recorder.frameInSecond ∧
    (s.writeRecordProgress b).recorder.fresh = s.recorder.fresh ∧
    (s.writeRecordProgress b).recorder.staged = s.recorder.staged ∧
    (s.writeRecordProgress b).recorder.records = s.recorder.records ∧
    (s.writeRecordProgress b).path.base = s.path.base ∧
    (s.writeRecordProgress b).path.decodeEn = s.path.decodeEn ∧
    (s.writeRecordProgress b).path.resetAsserted = s.path.resetAsserted ∧
    (s.writeRecordProgress b).path.queues = s.path.queues ∧
    (s.writeRecordProgress b).path.partialWrites = s.path.partialWrites ∧
    (s.writeRecordProgress b).path.memoryFaults = s.path.memoryFaults ∧
    (s.writeRecordProgress b).path.faultMark = s.path.faultMark ∧
    (s.writeRecordProgress b).path.fwdWait = s.path.fwdWait ∧
    (s.writeRecordProgress b).path.presented = s.path.presented ∧
    (s.writeRecordProgress b).path.lastOwn = s.path.lastOwn ∧
    (s.writeRecordProgress b).path.returned = s.path.returned ∧ (s.writeRecordProgress b).plan = s.plan ∧
    (s.writeRecordProgress b).notice = s.notice ∧ (s.writeRecordProgress b).mem = s.mem ∧
    (s.writeRecordProgress b).pending = s.pending := by
  simp [State.writeRecordProgress]

@[simp] theorem State.issueBursts_frame (s : State) (o : Owner) (a : Nat) (l : List Burst) :
    (s.issueBursts o a l).src = s.src ∧ (s.issueBursts o a l).mix = s.mix ∧
    (s.issueBursts o a l).line = s.line ∧ (s.issueBursts o a l).ring = s.ring ∧
    (s.issueBursts o a l).group = s.group ∧ (s.issueBursts o a l).recorder = s.recorder ∧
    (s.issueBursts o a l).path.base = s.path.base ∧ (s.issueBursts o a l).path.decodeEn = s.path.decodeEn ∧
    (s.issueBursts o a l).path.resetAsserted = s.path.resetAsserted ∧
    (s.issueBursts o a l).path.queues = s.path.queues ∧
    (s.issueBursts o a l).path.partialWrites = s.path.partialWrites ∧
    (s.issueBursts o a l).path.memoryFaults = s.path.memoryFaults ∧
    (s.issueBursts o a l).path.faultMark = s.path.faultMark ∧
    (s.issueBursts o a l).path.fwdWait = s.path.fwdWait ∧
    (s.issueBursts o a l).path.presented = s.path.presented ∧
    (s.issueBursts o a l).path.lastOwn = s.path.lastOwn ∧
    (s.issueBursts o a l).path.returned = s.path.returned ∧ (s.issueBursts o a l).plan = s.plan ∧
    (s.issueBursts o a l).notice = s.notice ∧ (s.issueBursts o a l).mem = s.mem ∧
    (s.issueBursts o a l).pending = s.pending := by
  induction l generalizing s a with
  | nil => simp [State.issueBursts]
  | cons x rest ih => simp [State.issueBursts, ih]

@[simp] theorem State.captureLevels_frame (s : State) :
    (s.captureLevels).src.F = s.src.F ∧ (s.captureLevels).src.lag = s.src.lag ∧
    (s.captureLevels).src.clockLost = s.src.clockLost ∧ (s.captureLevels).src.views = s.src.views ∧
    (s.captureLevels).src.turrets = s.src.turrets ∧ (s.captureLevels).src.snapDeferred = s.src.snapDeferred ∧
    (s.captureLevels).mix = s.mix ∧ (s.captureLevels).line = s.line ∧ (s.captureLevels).ring = s.ring ∧
    (s.captureLevels).group = s.group ∧ (s.captureLevels).recorder = s.recorder ∧
    (s.captureLevels).path.base = s.path.base ∧ (s.captureLevels).path.decodeEn = s.path.decodeEn ∧
    (s.captureLevels).path.resetAsserted = s.path.resetAsserted ∧
    (s.captureLevels).path.queues = s.path.queues ∧
    (s.captureLevels).path.partialWrites = s.path.partialWrites ∧
    (s.captureLevels).path.memoryFaults = s.path.memoryFaults ∧
    (s.captureLevels).path.faultMark = s.path.faultMark ∧ (s.captureLevels).path.fwdWait = s.path.fwdWait ∧
    (s.captureLevels).path.presented = s.path.presented ∧ (s.captureLevels).path.lastOwn = s.path.lastOwn ∧
    (s.captureLevels).path.returned = s.path.returned ∧ (s.captureLevels).plan = s.plan ∧
    (s.captureLevels).notice = s.notice ∧ (s.captureLevels).mem = s.mem ∧
    (s.captureLevels).pending = s.pending := by
  simp only [State.captureLevels]; (repeat' split) <;> simp

@[simp] theorem State.captureState_frame (s : State) :
    (s.captureState).src = s.src ∧ (s.captureState).mix = s.mix ∧ (s.captureState).line = s.line ∧
    (s.captureState).ring = s.ring ∧ (s.captureState).group = s.group ∧ (s.captureState).recorder = s.recorder ∧
    (s.captureState).path.base = s.path.base ∧ (s.captureState).path.decodeEn = s.path.decodeEn ∧
    (s.captureState).path.resetAsserted = s.path.resetAsserted ∧ (s.captureState).path.queues = s.path.queues ∧
    (s.captureState).path.partialWrites = s.path.partialWrites ∧
    (s.captureState).path.memoryFaults = s.path.memoryFaults ∧
    (s.captureState).path.faultMark = s.path.faultMark ∧ (s.captureState).path.fwdWait = s.path.fwdWait ∧
    (s.captureState).path.presented = s.path.presented ∧ (s.captureState).path.lastOwn = s.path.lastOwn ∧
    (s.captureState).path.returned = s.path.returned ∧ (s.captureState).plan = s.plan ∧
    (s.captureState).notice.rings = s.notice.rings ∧
    (s.captureState).notice.imageDeferred = s.notice.imageDeferred ∧ (s.captureState).mem = s.mem ∧
    (s.captureState).pending = s.pending := by
  simp only [State.captureState]; (repeat' split) <;> simp

@[simp] theorem State.finishLevels_frame (s : State) :
    (s.finishLevels).src.F = s.src.F ∧ (s.finishLevels).src.lag = s.src.lag ∧
    (s.finishLevels).src.clockLost = s.src.clockLost ∧ (s.finishLevels).src.views = s.src.views ∧
    (s.finishLevels).src.sources = s.src.sources ∧ (s.finishLevels).src.turrets = s.src.turrets ∧
    (s.finishLevels).mix = s.mix ∧ (s.finishLevels).line = s.line ∧ (s.finishLevels).ring = s.ring ∧
    (s.finishLevels).group = s.group ∧ (s.finishLevels).recorder = s.recorder ∧
    (s.finishLevels).path.base = s.path.base ∧ (s.finishLevels).path.decodeEn = s.path.decodeEn ∧
    (s.finishLevels).path.resetAsserted = s.path.resetAsserted ∧ (s.finishLevels).path.queues = s.path.queues ∧
    (s.finishLevels).path.partialWrites = s.path.partialWrites ∧
    (s.finishLevels).path.memoryFaults = s.path.memoryFaults ∧
    (s.finishLevels).path.faultMark = s.path.faultMark ∧ (s.finishLevels).path.fwdWait = s.path.fwdWait ∧
    (s.finishLevels).path.presented = s.path.presented ∧ (s.finishLevels).path.lastOwn = s.path.lastOwn ∧
    (s.finishLevels).path.returned = s.path.returned ∧ (s.finishLevels).plan = s.plan ∧
    (s.finishLevels).notice.imagePending = s.notice.imagePending ∧
    (s.finishLevels).notice.imageDeferred = s.notice.imageDeferred ∧
    (s.finishLevels).notice.image = s.notice.image ∧ (s.finishLevels).mem = s.mem ∧
    (s.finishLevels).pending = s.pending := by
  simp only [State.finishLevels]; (repeat' split) <;> simp

@[simp] theorem State.finishState_frame (s : State) :
    (s.finishState).src = s.src ∧ (s.finishState).mix = s.mix ∧ (s.finishState).line = s.line ∧
    (s.finishState).ring = s.ring ∧ (s.finishState).group = s.group ∧ (s.finishState).recorder = s.recorder ∧
    (s.finishState).path.base = s.path.base ∧ (s.finishState).path.decodeEn = s.path.decodeEn ∧
    (s.finishState).path.resetAsserted = s.path.resetAsserted ∧ (s.finishState).path.queues = s.path.queues ∧
    (s.finishState).path.partialWrites = s.path.partialWrites ∧
    (s.finishState).path.memoryFaults = s.path.memoryFaults ∧
    (s.finishState).path.faultMark = s.path.faultMark ∧ (s.finishState).path.fwdWait = s.path.fwdWait ∧
    (s.finishState).path.presented = s.path.presented ∧ (s.finishState).path.lastOwn = s.path.lastOwn ∧
    (s.finishState).path.returned = s.path.returned ∧ (s.finishState).plan = s.plan ∧
    (s.finishState).mem = s.mem ∧ (s.finishState).pending = s.pending := by
  simp only [State.finishState]; (repeat' split) <;> simp

end Sys2Proof.Machine
end

