-- ==== Sys2Proof/Laws/CallFrames.lean ====
section
/-!
SUPPORT. The frames of the requests that ask for a record channel, of the plan unit's close work, of the requests as the plan unit
takes them, of memory's answers and of the taking of a burst. Each lemma says which parts of the state an operation leaves as they
were, so that no later proof unfolds it for that.
-/

namespace Sys2Proof.Machine

/-- Carrying waiting bursts moves them between the lists of the memory side, and changes nothing else. -/
theorem PathSwitch.presentUntil_frame (fuel id : Nat) (p : PathSwitch) :
    (PathSwitch.presentUntil fuel id p).base = p.base ∧ (PathSwitch.presentUntil fuel id p).decodeEn = p.decodeEn ∧
    (PathSwitch.presentUntil fuel id p).resetAsserted = p.resetAsserted ∧ (PathSwitch.presentUntil fuel id p).queues = p.queues ∧
    (PathSwitch.presentUntil fuel id p).partialWrites = p.partialWrites ∧ (PathSwitch.presentUntil fuel id p).memoryFaults = p.memoryFaults ∧
    (PathSwitch.presentUntil fuel id p).faultMark = p.faultMark ∧ (PathSwitch.presentUntil fuel id p).nextId = p.nextId ∧
    (PathSwitch.presentUntil fuel id p).returned = p.returned := by
  induction fuel generalizing p with
  | zero => simp [PathSwitch.presentUntil]
  | succ n ih =>
    simp only [PathSwitch.presentUntil]
    split
    · simp only [ih]
      simp only [PathSwitch.presentOne]
      (repeat' split) <;> simp
    · simp

theorem requestChannel_frame {s t : State} {o : Obj} {b : Bool} (h : s.requestChannel o b = .ok t) :
    (t).src = s.src ∧ (t).mix = s.mix ∧ (t).line = s.line ∧ (t).ring = s.ring ∧ (t).group = s.group ∧
    (t).recorder.status = s.recorder.status ∧ (t).recorder.cap = s.recorder.cap ∧
    (t).recorder.producer = s.recorder.producer ∧ (t).recorder.consumer = s.recorder.consumer ∧
    (t).recorder.seconds = s.recorder.seconds ∧ (t).recorder.frameInSecond = s.recorder.frameInSecond ∧
    (t).recorder.fresh = s.recorder.fresh ∧ (t).recorder.staged = s.recorder.staged ∧
    (t).recorder.records = s.recorder.records ∧ (t).recorder.batches = s.recorder.batches ∧ (t).path = s.path ∧
    (t).plan = s.plan ∧ (t).notice = s.notice ∧ (t).mem = s.mem ∧ (t).pending = s.pending := by
  revert h; simp only [State.requestChannel]; (repeat' split) <;> intro h <;> cases h <;> simp

theorem keyChannel_frame {s t : State} {n : Nat} {k : Option Code} (h : s.keyChannel n = .ok (t, k)) :
    (t).src = s.src ∧ (t).mix = s.mix ∧ (t).line = s.line ∧ (t).ring = s.ring ∧ (t).group = s.group ∧
    (t).recorder.status = s.recorder.status ∧ (t).recorder.cap = s.recorder.cap ∧
    (t).recorder.producer = s.recorder.producer ∧ (t).recorder.consumer = s.recorder.consumer ∧
    (t).recorder.seconds = s.recorder.seconds ∧ (t).recorder.frameInSecond = s.recorder.frameInSecond ∧
    (t).recorder.fresh = s.recorder.fresh ∧ (t).recorder.staged = s.recorder.staged ∧
    (t).recorder.records = s.recorder.records ∧ (t).recorder.batches = s.recorder.batches ∧ (t).path = s.path ∧
    (t).plan = s.plan ∧ (t).notice = s.notice ∧ (t).mem = s.mem ∧ (t).pending = s.pending := by
  revert h; simp only [State.keyChannel]; (repeat' split) <;> intro h <;> cases h <;> first | simp | exact requestChannel_frame (by assumption)

theorem joinChannel_frame {s t : State} {g : Nat} {k : Option Code} (h : s.joinChannel g = .ok (t, k)) :
    (t).src = s.src ∧ (t).mix = s.mix ∧ (t).line = s.line ∧ (t).ring = s.ring ∧ (t).group = s.group ∧
    (t).recorder.status = s.recorder.status ∧ (t).recorder.cap = s.recorder.cap ∧
    (t).recorder.producer = s.recorder.producer ∧ (t).recorder.consumer = s.recorder.consumer ∧
    (t).recorder.seconds = s.recorder.seconds ∧ (t).recorder.frameInSecond = s.recorder.frameInSecond ∧
    (t).recorder.fresh = s.recorder.fresh ∧ (t).recorder.staged = s.recorder.staged ∧
    (t).recorder.records = s.recorder.records ∧ (t).recorder.batches = s.recorder.batches ∧ (t).path = s.path ∧
    (t).plan = s.plan ∧ (t).notice = s.notice ∧ (t).mem = s.mem ∧ (t).pending = s.pending := by
  revert h; simp only [State.joinChannel]; (repeat' split) <;> intro h <;> cases h <;> first | simp | exact requestChannel_frame (by assumption)

theorem joinClaim_frame {s t : State} {g : Nat} {m : Member} (h : s.joinClaim g m = .ok t) :
    (t).src = s.src ∧ (t).mix = s.mix ∧ (t).line.lines = s.line.lines ∧ (t).ring = s.ring ∧
    (t).group = s.group ∧ (t).recorder = s.recorder ∧ (t).path = s.path ∧ (t).plan = s.plan ∧
    (t).notice = s.notice ∧ (t).mem = s.mem ∧ (t).pending = s.pending := by
  revert h; simp only [State.joinClaim, State.claim]; (repeat' split) <;> intro h <;> cases h <;> simp

@[simp] theorem State.commitKey_frame (s : State) (n h : Nat) :
    ((s.commitKey n h).1).src = s.src ∧ ((s.commitKey n h).1).ring.programs = s.ring.programs ∧
    ((s.commitKey n h).1).group = s.group ∧ ((s.commitKey n h).1).recorder.status = s.recorder.status ∧
    ((s.commitKey n h).1).recorder.cap = s.recorder.cap ∧
    ((s.commitKey n h).1).recorder.producer = s.recorder.producer ∧
    ((s.commitKey n h).1).recorder.consumer = s.recorder.consumer ∧
    ((s.commitKey n h).1).recorder.seconds = s.recorder.seconds ∧
    ((s.commitKey n h).1).recorder.frameInSecond = s.recorder.frameInSecond ∧
    ((s.commitKey n h).1).recorder.fresh = s.recorder.fresh ∧
    ((s.commitKey n h).1).recorder.staged = s.recorder.staged ∧
    ((s.commitKey n h).1).recorder.records.map PendingRecord.core = s.recorder.records.map PendingRecord.core ∧
    ((s.commitKey n h).1).recorder.batches = s.recorder.batches ∧
    ((s.commitKey n h).1).path.base = s.path.base ∧ ((s.commitKey n h).1).path.decodeEn = s.path.decodeEn ∧
    ((s.commitKey n h).1).path.resetAsserted = s.path.resetAsserted ∧
    ((s.commitKey n h).1).path.queues = s.path.queues ∧
    ((s.commitKey n h).1).path.partialWrites = s.path.partialWrites ∧
    ((s.commitKey n h).1).path.memoryFaults = s.path.memoryFaults ∧
    ((s.commitKey n h).1).path.faultMark = s.path.faultMark ∧
    ((s.commitKey n h).1).path.fwdWait = s.path.fwdWait ∧
    ((s.commitKey n h).1).path.presented = s.path.presented ∧
    ((s.commitKey n h).1).path.lastOwn = s.path.lastOwn ∧
    ((s.commitKey n h).1).path.returned = s.path.returned ∧ ((s.commitKey n h).1).plan = s.plan ∧
    ((s.commitKey n h).1).notice.imagePending = s.notice.imagePending ∧
    ((s.commitKey n h).1).notice.imageDeferred = s.notice.imageDeferred ∧
    ((s.commitKey n h).1).notice.image = s.notice.image ∧ ((s.commitKey n h).1).mem = s.mem ∧
    ((s.commitKey n h).1).pending = s.pending := by
  simp only [State.commitKey]
  split
  · simp
  · rename_i s1 skipped hc
    have e := keyChannel_frame hc
    split
    · simp
    · split <;> simp [e]

@[simp] theorem State.lineKey_frame (s : State) (t h n : Nat) :
    ((s.lineKey t h n).1).src = s.src ∧ ((s.lineKey t h n).1).ring.programs = s.ring.programs ∧
    ((s.lineKey t h n).1).group = s.group ∧ ((s.lineKey t h n).1).recorder.status = s.recorder.status ∧
    ((s.lineKey t h n).1).recorder.cap = s.recorder.cap ∧
    ((s.lineKey t h n).1).recorder.producer = s.recorder.producer ∧
    ((s.lineKey t h n).1).recorder.consumer = s.recorder.consumer ∧
    ((s.lineKey t h n).1).recorder.seconds = s.recorder.seconds ∧
    ((s.lineKey t h n).1).recorder.frameInSecond = s.recorder.frameInSecond ∧
    ((s.lineKey t h n).1).recorder.fresh = s.recorder.fresh ∧
    ((s.lineKey t h n).1).recorder.staged = s.recorder.staged ∧
    ((s.lineKey t h n).1).recorder.records.map PendingRecord.core = s.recorder.records.map PendingRecord.core ∧
    ((s.lineKey t h n).1).recorder.batches = s.recorder.batches ∧
    ((s.lineKey t h n).1).path.base = s.path.base ∧ ((s.lineKey t h n).1).path.decodeEn = s.path.decodeEn ∧
    ((s.lineKey t h n).1).path.resetAsserted = s.path.resetAsserted ∧
    ((s.lineKey t h n).1).path.queues = s.path.queues ∧
    ((s.lineKey t h n).1).path.partialWrites = s.path.partialWrites ∧
    ((s.lineKey t h n).1).path.memoryFaults = s.path.memoryFaults ∧
    ((s.lineKey t h n).1).path.faultMark = s.path.faultMark ∧
    ((s.lineKey t h n).1).path.fwdWait = s.path.fwdWait ∧
    ((s.lineKey t h n).1).path.presented = s.path.presented ∧
    ((s.lineKey t h n).1).path.lastOwn = s.path.lastOwn ∧
    ((s.lineKey t h n).1).path.returned = s.path.returned ∧ ((s.lineKey t h n).1).plan = s.plan ∧
    ((s.lineKey t h n).1).notice.imagePending = s.notice.imagePending ∧
    ((s.lineKey t h n).1).notice.imageDeferred = s.notice.imageDeferred ∧
    ((s.lineKey t h n).1).notice.image = s.notice.image ∧ ((s.lineKey t h n).1).mem = s.mem ∧
    ((s.lineKey t h n).1).pending = s.pending := by
  simp only [State.lineKey]; (repeat' split) <;> simp

@[simp] theorem State.commitJoin_frame (s : State) (g : Nat) (m : Member) :
    ((s.commitJoin g m).1).src = s.src ∧ ((s.commitJoin g m).1).line.lines = s.line.lines ∧
    ((s.commitJoin g m).1).ring = s.ring ∧ ((s.commitJoin g m).1).recorder.status = s.recorder.status ∧
    ((s.commitJoin g m).1).recorder.cap = s.recorder.cap ∧
    ((s.commitJoin g m).1).recorder.producer = s.recorder.producer ∧
    ((s.commitJoin g m).1).recorder.consumer = s.recorder.consumer ∧
    ((s.commitJoin g m).1).recorder.seconds = s.recorder.seconds ∧
    ((s.commitJoin g m).1).recorder.frameInSecond = s.recorder.frameInSecond ∧
    ((s.commitJoin g m).1).recorder.fresh = s.recorder.fresh ∧
    ((s.commitJoin g m).1).recorder.staged = s.recorder.staged ∧
    ((s.commitJoin g m).1).recorder.records.map PendingRecord.core = s.recorder.records.map PendingRecord.core ∧
    ((s.commitJoin g m).1).recorder.batches = s.recorder.batches ∧
    ((s.commitJoin g m).1).path.base = s.path.base ∧ ((s.commitJoin g m).1).path.decodeEn = s.path.decodeEn ∧
    ((s.commitJoin g m).1).path.resetAsserted = s.path.resetAsserted ∧
    ((s.commitJoin g m).1).path.queues = s.path.queues ∧
    ((s.commitJoin g m).1).path.partialWrites = s.path.partialWrites ∧
    ((s.commitJoin g m).1).path.memoryFaults = s.path.memoryFaults ∧
    ((s.commitJoin g m).1).path.faultMark = s.path.faultMark ∧
    ((s.commitJoin g m).1).path.fwdWait = s.path.fwdWait ∧
    ((s.commitJoin g m).1).path.presented = s.path.presented ∧
    ((s.commitJoin g m).1).path.lastOwn = s.path.lastOwn ∧
    ((s.commitJoin g m).1).path.returned = s.path.returned ∧ ((s.commitJoin g m).1).plan = s.plan ∧
    ((s.commitJoin g m).1).notice.imagePending = s.notice.imagePending ∧
    ((s.commitJoin g m).1).notice.imageDeferred = s.notice.imageDeferred ∧
    ((s.commitJoin g m).1).notice.image = s.notice.image ∧ ((s.commitJoin g m).1).mem = s.mem ∧
    ((s.commitJoin g m).1).pending = s.pending := by
  simp only [State.commitJoin]
  split
  · simp
  · rename_i s1 skipped hc
    have e := joinChannel_frame hc
    split
    · simp
    · rename_i s2 hl
      have f := joinClaim_frame hl
      split
      · simp
      · split <;> simp [e, f]

@[simp] theorem State.groupJoin_frame (s : State) (j : JoinRequest) :
    ((s.groupJoin j).1).src = s.src ∧ ((s.groupJoin j).1).line.lines = s.line.lines ∧
    ((s.groupJoin j).1).ring = s.ring ∧ ((s.groupJoin j).1).recorder.status = s.recorder.status ∧
    ((s.groupJoin j).1).recorder.cap = s.recorder.cap ∧
    ((s.groupJoin j).1).recorder.producer = s.recorder.producer ∧
    ((s.groupJoin j).1).recorder.consumer = s.recorder.consumer ∧
    ((s.groupJoin j).1).recorder.seconds = s.recorder.seconds ∧
    ((s.groupJoin j).1).recorder.frameInSecond = s.recorder.frameInSecond ∧
    ((s.groupJoin j).1).recorder.fresh = s.recorder.fresh ∧
    ((s.groupJoin j).1).recorder.staged = s.recorder.staged ∧
    ((s.groupJoin j).1).recorder.records.map PendingRecord.core = s.recorder.records.map PendingRecord.core ∧
    ((s.groupJoin j).1).recorder.batches = s.recorder.batches ∧ ((s.groupJoin j).1).path.base = s.path.base ∧
    ((s.groupJoin j).1).path.decodeEn = s.path.decodeEn ∧
    ((s.groupJoin j).1).path.resetAsserted = s.path.resetAsserted ∧
    ((s.groupJoin j).1).path.queues = s.path.queues ∧
    ((s.groupJoin j).1).path.partialWrites = s.path.partialWrites ∧
    ((s.groupJoin j).1).path.memoryFaults = s.path.memoryFaults ∧
    ((s.groupJoin j).1).path.faultMark = s.path.faultMark ∧ ((s.groupJoin j).1).path.fwdWait = s.path.fwdWait ∧
    ((s.groupJoin j).1).path.presented = s.path.presented ∧ ((s.groupJoin j).1).path.lastOwn = s.path.lastOwn ∧
    ((s.groupJoin j).1).path.returned = s.path.returned ∧ ((s.groupJoin j).1).plan = s.plan ∧
    ((s.groupJoin j).1).notice.imagePending = s.notice.imagePending ∧
    ((s.groupJoin j).1).notice.imageDeferred = s.notice.imageDeferred ∧
    ((s.groupJoin j).1).notice.image = s.notice.image ∧ ((s.groupJoin j).1).mem = s.mem ∧
    ((s.groupJoin j).1).pending = s.pending := by
  simp only [State.groupJoin]; (repeat' split) <;> simp

theorem decideEntry_frame {s t : State} {id : RecordId} {d : Burst} {c : Code} (h : decideEntry s id d = .decided t c) :
    (t).src.F = s.src.F ∧ (t).src.lag = s.src.lag ∧ (t).src.clockLost = s.src.clockLost ∧
    (t).src.snapPending = s.src.snapPending ∧ (t).src.snapDeferred = s.src.snapDeferred ∧
    (t).src.levelImage = s.src.levelImage ∧ (t).recorder.status = s.recorder.status ∧
    (t).recorder.cap = s.recorder.cap ∧ (t).recorder.producer = s.recorder.producer ∧
    (t).recorder.consumer = s.recorder.consumer ∧ (t).recorder.seconds = s.recorder.seconds ∧
    (t).recorder.frameInSecond = s.recorder.frameInSecond ∧ (t).recorder.staged = s.recorder.staged ∧
    (t).recorder.records.map PendingRecord.core = s.recorder.records.map PendingRecord.core ∧ (t).recorder.batches = s.recorder.batches ∧
    (t).path.base = s.path.base ∧ (t).path.decodeEn = s.path.decodeEn ∧
    (t).path.resetAsserted = s.path.resetAsserted ∧ (t).path.queues = s.path.queues ∧
    (t).path.partialWrites = s.path.partialWrites ∧ (t).path.memoryFaults = s.path.memoryFaults ∧
    (t).path.faultMark = s.path.faultMark ∧ (t).path.fwdWait = s.path.fwdWait ∧
    (t).path.presented = s.path.presented ∧ (t).path.lastOwn = s.path.lastOwn ∧
    (t).path.returned = s.path.returned ∧ (t).plan.staging = s.plan.staging ∧ (t).plan.clears = s.plan.clears ∧
    (t).plan.restart = s.plan.restart ∧ (t).notice.imagePending = s.notice.imagePending ∧
    (t).notice.imageDeferred = s.notice.imageDeferred ∧ (t).notice.image = s.notice.image ∧ (t).mem = s.mem ∧
    (t).pending = s.pending := by
  revert h
  cases id <;> simp only [decideEntry, decideRecord] <;> (repeat' split) <;> intro h <;> cases h <;> simp

@[simp] theorem State.takeEntry_frame (s : State) (e : Staged) :
    ((s.takeEntry e).1).src.F = s.src.F ∧ ((s.takeEntry e).1).src.lag = s.src.lag ∧
    ((s.takeEntry e).1).src.clockLost = s.src.clockLost ∧
    ((s.takeEntry e).1).src.snapPending = s.src.snapPending ∧
    ((s.takeEntry e).1).src.snapDeferred = s.src.snapDeferred ∧
    ((s.takeEntry e).1).src.levelImage = s.src.levelImage ∧
    ((s.takeEntry e).1).recorder.status = s.recorder.status ∧
    ((s.takeEntry e).1).recorder.cap = s.recorder.cap ∧
    ((s.takeEntry e).1).recorder.producer = s.recorder.producer ∧
    ((s.takeEntry e).1).recorder.consumer = s.recorder.consumer ∧
    ((s.takeEntry e).1).recorder.seconds = s.recorder.seconds ∧
    ((s.takeEntry e).1).recorder.frameInSecond = s.recorder.frameInSecond ∧
    ((s.takeEntry e).1).recorder.staged = s.recorder.staged ∧
    ((s.takeEntry e).1).recorder.records.map PendingRecord.core = s.recorder.records.map PendingRecord.core ∧
    ((s.takeEntry e).1).recorder.batches = s.recorder.batches ∧ ((s.takeEntry e).1).path.base = s.path.base ∧
    ((s.takeEntry e).1).path.decodeEn = s.path.decodeEn ∧
    ((s.takeEntry e).1).path.resetAsserted = s.path.resetAsserted ∧
    ((s.takeEntry e).1).path.queues = s.path.queues ∧
    ((s.takeEntry e).1).path.partialWrites = s.path.partialWrites ∧
    ((s.takeEntry e).1).path.memoryFaults = s.path.memoryFaults ∧
    ((s.takeEntry e).1).path.faultMark = s.path.faultMark ∧ ((s.takeEntry e).1).path.fwdWait = s.path.fwdWait ∧
    ((s.takeEntry e).1).path.presented = s.path.presented ∧ ((s.takeEntry e).1).path.lastOwn = s.path.lastOwn ∧
    ((s.takeEntry e).1).path.returned = s.path.returned ∧ ((s.takeEntry e).1).plan.staging = s.plan.staging ∧
    ((s.takeEntry e).1).plan.clears = s.plan.clears ∧ ((s.takeEntry e).1).plan.restart = s.plan.restart ∧
    ((s.takeEntry e).1).notice.imagePending = s.notice.imagePending ∧
    ((s.takeEntry e).1).notice.imageDeferred = s.notice.imageDeferred ∧
    ((s.takeEntry e).1).notice.image = s.notice.image ∧ ((s.takeEntry e).1).mem = s.mem ∧
    ((s.takeEntry e).1).pending = s.pending := by
  simp only [State.takeEntry]
  split
  · simp
  · split
    · rename_i hd
      simp [decideEntry_frame hd]
    · split <;> simp

@[simp] theorem State.takeEntries_frame (s : State) (l : List Staged) :
    ((s.takeEntries l).1).src.F = s.src.F ∧ ((s.takeEntries l).1).src.lag = s.src.lag ∧
    ((s.takeEntries l).1).src.clockLost = s.src.clockLost ∧
    ((s.takeEntries l).1).src.snapPending = s.src.snapPending ∧
    ((s.takeEntries l).1).src.snapDeferred = s.src.snapDeferred ∧
    ((s.takeEntries l).1).src.levelImage = s.src.levelImage ∧
    ((s.takeEntries l).1).recorder.status = s.recorder.status ∧
    ((s.takeEntries l).1).recorder.cap = s.recorder.cap ∧
    ((s.takeEntries l).1).recorder.producer = s.recorder.producer ∧
    ((s.takeEntries l).1).recorder.consumer = s.recorder.consumer ∧
    ((s.takeEntries l).1).recorder.seconds = s.recorder.seconds ∧
    ((s.takeEntries l).1).recorder.frameInSecond = s.recorder.frameInSecond ∧
    ((s.takeEntries l).1).recorder.staged = s.recorder.staged ∧
    ((s.takeEntries l).1).recorder.records.map PendingRecord.core = s.recorder.records.map PendingRecord.core ∧
    ((s.takeEntries l).1).recorder.batches = s.recorder.batches ∧
    ((s.takeEntries l).1).path.base = s.path.base ∧ ((s.takeEntries l).1).path.decodeEn = s.path.decodeEn ∧
    ((s.takeEntries l).1).path.resetAsserted = s.path.resetAsserted ∧
    ((s.takeEntries l).1).path.queues = s.path.queues ∧
    ((s.takeEntries l).1).path.partialWrites = s.path.partialWrites ∧
    ((s.takeEntries l).1).path.memoryFaults = s.path.memoryFaults ∧
    ((s.takeEntries l).1).path.faultMark = s.path.faultMark ∧
    ((s.takeEntries l).1).path.fwdWait = s.path.fwdWait ∧
    ((s.takeEntries l).1).path.presented = s.path.presented ∧
    ((s.takeEntries l).1).path.lastOwn = s.path.lastOwn ∧
    ((s.takeEntries l).1).path.returned = s.path.returned ∧
    ((s.takeEntries l).1).plan.staging = s.plan.staging ∧ ((s.takeEntries l).1).plan.clears = s.plan.clears ∧
    ((s.takeEntries l).1).plan.restart = s.plan.restart ∧
    ((s.takeEntries l).1).notice.imagePending = s.notice.imagePending ∧
    ((s.takeEntries l).1).notice.imageDeferred = s.notice.imageDeferred ∧
    ((s.takeEntries l).1).notice.image = s.notice.image ∧ ((s.takeEntries l).1).mem = s.mem ∧
    ((s.takeEntries l).1).pending = s.pending := by
  induction l generalizing s with
  | nil => simp [State.takeEntries]
  | cons x rest ih => simp [State.takeEntries, ih]

@[simp] theorem State.takeStaging_frame (s : State) :
    (s.takeStaging).src.F = s.src.F ∧ (s.takeStaging).src.lag = s.src.lag ∧
    (s.takeStaging).src.clockLost = s.src.clockLost ∧ (s.takeStaging).src.snapPending = s.src.snapPending ∧
    (s.takeStaging).src.snapDeferred = s.src.snapDeferred ∧ (s.takeStaging).src.levelImage = s.src.levelImage ∧
    (s.takeStaging).recorder.status = s.recorder.status ∧ (s.takeStaging).recorder.cap = s.recorder.cap ∧
    (s.takeStaging).recorder.producer = s.recorder.producer ∧
    (s.takeStaging).recorder.consumer = s.recorder.consumer ∧
    (s.takeStaging).recorder.seconds = s.recorder.seconds ∧
    (s.takeStaging).recorder.frameInSecond = s.recorder.frameInSecond ∧
    (s.takeStaging).recorder.staged = s.recorder.staged ∧
    (s.takeStaging).recorder.records.map PendingRecord.core = s.recorder.records.map PendingRecord.core ∧
    (s.takeStaging).recorder.batches = s.recorder.batches ∧ (s.takeStaging).path.base = s.path.base ∧
    (s.takeStaging).path.decodeEn = s.path.decodeEn ∧
    (s.takeStaging).path.resetAsserted = s.path.resetAsserted ∧ (s.takeStaging).path.queues = s.path.queues ∧
    (s.takeStaging).path.partialWrites = s.path.partialWrites ∧
    (s.takeStaging).path.memoryFaults = s.path.memoryFaults ∧
    (s.takeStaging).path.faultMark = s.path.faultMark ∧ (s.takeStaging).path.fwdWait = s.path.fwdWait ∧
    (s.takeStaging).path.presented = s.path.presented ∧ (s.takeStaging).path.lastOwn = s.path.lastOwn ∧
    (s.takeStaging).path.returned = s.path.returned ∧ (s.takeStaging).plan.clears = s.plan.clears ∧
    (s.takeStaging).plan.restart = s.plan.restart ∧
    (s.takeStaging).notice.imagePending = s.notice.imagePending ∧
    (s.takeStaging).notice.imageDeferred = s.notice.imageDeferred ∧
    (s.takeStaging).notice.image = s.notice.image ∧ (s.takeStaging).mem = s.mem ∧
    (s.takeStaging).pending = s.pending := by
  simp [State.takeStaging]

@[simp] theorem State.dispatch_frame (s : State) (r : ReplyTo) (d : Burst) (k : RequestKind) :
    (s.dispatch r d k).src.F = s.src.F ∧ (s.dispatch r d k).src.lag = s.src.lag ∧
    (s.dispatch r d k).src.clockLost = s.src.clockLost ∧ (s.dispatch r d k).src.views = s.src.views ∧
    (s.dispatch r d k).src.sources = s.src.sources ∧ (s.dispatch r d k).src.turrets = s.src.turrets ∧
    (s.dispatch r d k).src.levelImage = s.src.levelImage ∧ (s.dispatch r d k).ring.programs = s.ring.programs ∧
    (s.dispatch r d k).recorder.status = s.recorder.status ∧ (s.dispatch r d k).recorder.cap = s.recorder.cap ∧
    (s.dispatch r d k).recorder.producer = s.recorder.producer ∧
    (s.dispatch r d k).recorder.consumer = s.recorder.consumer ∧
    (s.dispatch r d k).recorder.seconds = s.recorder.seconds ∧
    (s.dispatch r d k).recorder.frameInSecond = s.recorder.frameInSecond ∧
    (s.dispatch r d k).recorder.fresh = s.recorder.fresh ∧
    (s.dispatch r d k).recorder.records.map PendingRecord.core = s.recorder.records.map PendingRecord.core ∧
    (s.dispatch r d k).recorder.batches = s.recorder.batches ∧ (s.dispatch r d k).path.base = s.path.base ∧
    (s.dispatch r d k).path.decodeEn = s.path.decodeEn ∧
    (s.dispatch r d k).path.resetAsserted = s.path.resetAsserted ∧
    (s.dispatch r d k).path.queues = s.path.queues ∧
    (s.dispatch r d k).path.partialWrites = s.path.partialWrites ∧
    (s.dispatch r d k).path.memoryFaults = s.path.memoryFaults ∧
    (s.dispatch r d k).path.faultMark = s.path.faultMark ∧ (s.dispatch r d k).path.fwdWait = s.path.fwdWait ∧
    (s.dispatch r d k).path.presented = s.path.presented ∧ (s.dispatch r d k).path.lastOwn = s.path.lastOwn ∧
    (s.dispatch r d k).path.returned = s.path.returned ∧ (s.dispatch r d k).plan.staging = s.plan.staging ∧
    (s.dispatch r d k).plan.floor = s.plan.floor ∧ (s.dispatch r d k).notice.image = s.notice.image ∧
    (s.dispatch r d k).mem = s.mem ∧ (s.dispatch r d k).pending = s.pending := by
  cases k <;> simp [State.dispatch, answerNow]

@[simp] theorem State.takeRequest_frame (s : State) (cell : Nat) (d : Burst) :
    (s.takeRequest cell d).src.F = s.src.F ∧ (s.takeRequest cell d).src.lag = s.src.lag ∧
    (s.takeRequest cell d).src.clockLost = s.src.clockLost ∧ (s.takeRequest cell d).src.views = s.src.views ∧
    (s.takeRequest cell d).src.sources = s.src.sources ∧ (s.takeRequest cell d).src.turrets = s.src.turrets ∧
    (s.takeRequest cell d).src.levelImage = s.src.levelImage ∧
    (s.takeRequest cell d).ring.programs = s.ring.programs ∧
    (s.takeRequest cell d).recorder.status = s.recorder.status ∧
    (s.takeRequest cell d).recorder.cap = s.recorder.cap ∧
    (s.takeRequest cell d).recorder.producer = s.recorder.producer ∧
    (s.takeRequest cell d).recorder.consumer = s.recorder.consumer ∧
    (s.takeRequest cell d).recorder.seconds = s.recorder.seconds ∧
    (s.takeRequest cell d).recorder.frameInSecond = s.recorder.frameInSecond ∧
    (s.takeRequest cell d).recorder.fresh = s.recorder.fresh ∧
    (s.takeRequest cell d).recorder.records.map PendingRecord.core = s.recorder.records.map PendingRecord.core ∧
    (s.takeRequest cell d).recorder.batches = s.recorder.batches ∧
    (s.takeRequest cell d).path.base = s.path.base ∧ (s.takeRequest cell d).path.decodeEn = s.path.decodeEn ∧
    (s.takeRequest cell d).path.resetAsserted = s.path.resetAsserted ∧
    (s.takeRequest cell d).path.queues = s.path.queues ∧
    (s.takeRequest cell d).path.partialWrites = s.path.partialWrites ∧
    (s.takeRequest cell d).path.memoryFaults = s.path.memoryFaults ∧
    (s.takeRequest cell d).path.faultMark = s.path.faultMark ∧
    (s.takeRequest cell d).path.fwdWait = s.path.fwdWait ∧
    (s.takeRequest cell d).path.presented = s.path.presented ∧
    (s.takeRequest cell d).path.lastOwn = s.path.lastOwn ∧
    (s.takeRequest cell d).path.returned = s.path.returned ∧
    (s.takeRequest cell d).plan.staging = s.plan.staging ∧ (s.takeRequest cell d).plan.floor = s.plan.floor ∧
    (s.takeRequest cell d).notice.image = s.notice.image ∧ (s.takeRequest cell d).mem = s.mem ∧
    (s.takeRequest cell d).pending = s.pending := by
  simp only [State.takeRequest]; (repeat' split) <;> simp

@[simp] theorem State.hand_frame (s : State) (h : Hand) (d : Burst) :
    (s.hand h d).src.F = s.src.F ∧ (s.hand h d).src.lag = s.src.lag ∧
    (s.hand h d).src.clockLost = s.src.clockLost ∧ (s.hand h d).src.views = s.src.views ∧
    (s.hand h d).src.sources = s.src.sources ∧ (s.hand h d).src.turrets = s.src.turrets ∧
    (s.hand h d).src.levelImage = s.src.levelImage ∧ (s.hand h d).ring.programs = s.ring.programs ∧
    (s.hand h d).recorder.status = s.recorder.status ∧ (s.hand h d).recorder.cap = s.recorder.cap ∧
    (s.hand h d).recorder.producer = s.recorder.producer ∧ (s.hand h d).recorder.seconds = s.recorder.seconds ∧
    (s.hand h d).recorder.frameInSecond = s.recorder.frameInSecond ∧
    (s.hand h d).recorder.fresh = s.recorder.fresh ∧ (s.hand h d).recorder.records.map PendingRecord.core =
      s.recorder.records.map PendingRecord.core ∧
    (s.hand h d).recorder.batches = s.recorder.batches ∧ (s.hand h d).path.base = s.path.base ∧
    (s.hand h d).path.decodeEn = s.path.decodeEn ∧ (s.hand h d).path.resetAsserted = s.path.resetAsserted ∧
    (s.hand h d).path.queues = s.path.queues ∧ (s.hand h d).path.partialWrites = s.path.partialWrites ∧
    (s.hand h d).path.memoryFaults = s.path.memoryFaults ∧ (s.hand h d).path.faultMark = s.path.faultMark ∧
    (s.hand h d).path.fwdWait = s.path.fwdWait ∧ (s.hand h d).path.presented = s.path.presented ∧
    (s.hand h d).path.lastOwn = s.path.lastOwn ∧ (s.hand h d).path.returned = s.path.returned ∧
    (s.hand h d).plan.floor = s.plan.floor ∧ (s.hand h d).notice.image = s.notice.image ∧
    (s.hand h d).mem = s.mem ∧ (s.hand h d).pending = s.pending := by
  simp only [State.hand]; (repeat' split) <;> simp

@[simp] theorem State.answerMaster_frame (s : State) (m e : Nat) (h : Hand) (op : BurstOp) (ok : Bool) (d : Burst) :
    (s.answerMaster m e h op ok d).src.F = s.src.F ∧ (s.answerMaster m e h op ok d).src.lag = s.src.lag ∧
    (s.answerMaster m e h op ok d).src.clockLost = s.src.clockLost ∧
    (s.answerMaster m e h op ok d).src.views = s.src.views ∧
    (s.answerMaster m e h op ok d).src.sources = s.src.sources ∧
    (s.answerMaster m e h op ok d).src.turrets = s.src.turrets ∧
    (s.answerMaster m e h op ok d).src.levelImage = s.src.levelImage ∧
    (s.answerMaster m e h op ok d).ring.programs = s.ring.programs ∧
    (s.answerMaster m e h op ok d).recorder.status = s.recorder.status ∧
    (s.answerMaster m e h op ok d).recorder.cap = s.recorder.cap ∧
    (s.answerMaster m e h op ok d).recorder.producer = s.recorder.producer ∧
    (s.answerMaster m e h op ok d).recorder.seconds = s.recorder.seconds ∧
    (s.answerMaster m e h op ok d).recorder.frameInSecond = s.recorder.frameInSecond ∧
    (s.answerMaster m e h op ok d).recorder.fresh = s.recorder.fresh ∧
    (s.answerMaster m e h op ok d).recorder.records.map PendingRecord.core = s.recorder.records.map PendingRecord.core ∧
    (s.answerMaster m e h op ok d).recorder.batches = s.recorder.batches ∧
    (s.answerMaster m e h op ok d).path.base = s.path.base ∧
    (s.answerMaster m e h op ok d).path.decodeEn = s.path.decodeEn ∧
    (s.answerMaster m e h op ok d).path.resetAsserted = s.path.resetAsserted ∧
    (s.answerMaster m e h op ok d).path.partialWrites = s.path.partialWrites ∧
    (s.answerMaster m e h op ok d).path.memoryFaults = s.path.memoryFaults ∧
    (s.answerMaster m e h op ok d).path.faultMark = s.path.faultMark ∧
    (s.answerMaster m e h op ok d).path.fwdWait = s.path.fwdWait ∧
    (s.answerMaster m e h op ok d).path.presented = s.path.presented ∧
    (s.answerMaster m e h op ok d).path.lastOwn = s.path.lastOwn ∧
    (s.answerMaster m e h op ok d).plan.floor = s.plan.floor ∧
    (s.answerMaster m e h op ok d).notice.image = s.notice.image ∧ (s.answerMaster m e h op ok d).mem = s.mem ∧
    (s.answerMaster m e h op ok d).pending = s.pending := by
  simp only [State.answerMaster]; (repeat' split) <;> simp

@[simp] theorem State.receive_frame (s : State) (i j : Nat) (ok : Bool) (d : Burst) :
    (s.receive i j ok d).src = s.src ∧ (s.receive i j ok d).mix.slots = s.mix.slots ∧
    (s.receive i j ok d).mix.buses = s.mix.buses ∧ (s.receive i j ok d).mix.cache = s.mix.cache ∧
    (s.receive i j ok d).line = s.line ∧ (s.receive i j ok d).ring = s.ring ∧
    (s.receive i j ok d).group = s.group ∧ (s.receive i j ok d).recorder.channels = s.recorder.channels ∧
    (s.receive i j ok d).recorder.status = s.recorder.status ∧
    (s.receive i j ok d).recorder.cap = s.recorder.cap ∧
    (s.receive i j ok d).recorder.producer = s.recorder.producer ∧
    (s.receive i j ok d).recorder.consumer = s.recorder.consumer ∧
    (s.receive i j ok d).recorder.seconds = s.recorder.seconds ∧
    (s.receive i j ok d).recorder.frameInSecond = s.recorder.frameInSecond ∧
    (s.receive i j ok d).recorder.fresh = s.recorder.fresh ∧
    (s.receive i j ok d).recorder.staged = s.recorder.staged ∧
    (s.receive i j ok d).recorder.batches = s.recorder.batches ∧ (s.receive i j ok d).path = s.path ∧
    (s.receive i j ok d).plan = s.plan ∧ (s.receive i j ok d).notice = s.notice ∧
    (s.receive i j ok d).mem = s.mem ∧ (s.receive i j ok d).pending = s.pending := by
  simp [State.receive]

@[simp] theorem State.answerOwner_frame (s : State) (f : Flight) (ok : Bool) (d : Burst) :
    (s.answerOwner f ok d).src.F = s.src.F ∧ (s.answerOwner f ok d).src.lag = s.src.lag ∧
    (s.answerOwner f ok d).src.clockLost = s.src.clockLost ∧ (s.answerOwner f ok d).src.views = s.src.views ∧
    (s.answerOwner f ok d).src.sources = s.src.sources ∧ (s.answerOwner f ok d).src.turrets = s.src.turrets ∧
    (s.answerOwner f ok d).ring.programs = s.ring.programs ∧
    (s.answerOwner f ok d).recorder.status = s.recorder.status ∧
    (s.answerOwner f ok d).recorder.cap = s.recorder.cap ∧
    (s.answerOwner f ok d).recorder.producer = s.recorder.producer ∧
    (s.answerOwner f ok d).recorder.seconds = s.recorder.seconds ∧
    (s.answerOwner f ok d).recorder.frameInSecond = s.recorder.frameInSecond ∧
    (s.answerOwner f ok d).recorder.fresh = s.recorder.fresh ∧
    (s.answerOwner f ok d).recorder.batches = s.recorder.batches ∧
    (s.answerOwner f ok d).path.base = s.path.base ∧ (s.answerOwner f ok d).path.decodeEn = s.path.decodeEn ∧
    (s.answerOwner f ok d).path.resetAsserted = s.path.resetAsserted ∧
    (s.answerOwner f ok d).path.partialWrites = s.path.partialWrites ∧
    (s.answerOwner f ok d).path.memoryFaults = s.path.memoryFaults ∧
    (s.answerOwner f ok d).path.faultMark = s.path.faultMark ∧
    (s.answerOwner f ok d).path.fwdWait = s.path.fwdWait ∧
    (s.answerOwner f ok d).path.presented = s.path.presented ∧
    (s.answerOwner f ok d).path.lastOwn = s.path.lastOwn ∧ (s.answerOwner f ok d).plan.floor = s.plan.floor ∧
    (s.answerOwner f ok d).mem = s.mem ∧ (s.answerOwner f ok d).pending = s.pending := by
  simp only [State.answerOwner]; (repeat' split) <;> simp

@[simp] theorem State.completeImage_frame (s : State) (o : Owner) :
    (s.completeImage o).src.F = s.src.F ∧ (s.completeImage o).src.lag = s.src.lag ∧
    (s.completeImage o).src.clockLost = s.src.clockLost ∧ (s.completeImage o).src.views = s.src.views ∧
    (s.completeImage o).src.sources = s.src.sources ∧ (s.completeImage o).src.turrets = s.src.turrets ∧
    (s.completeImage o).mix = s.mix ∧ (s.completeImage o).line = s.line ∧ (s.completeImage o).ring = s.ring ∧
    (s.completeImage o).group = s.group ∧ (s.completeImage o).recorder = s.recorder ∧
    (s.completeImage o).path.base = s.path.base ∧ (s.completeImage o).path.decodeEn = s.path.decodeEn ∧
    (s.completeImage o).path.resetAsserted = s.path.resetAsserted ∧ (s.completeImage o).path.queues = s.path.queues ∧
    (s.completeImage o).path.partialWrites = s.path.partialWrites ∧
    (s.completeImage o).path.memoryFaults = s.path.memoryFaults ∧
    (s.completeImage o).path.faultMark = s.path.faultMark ∧ (s.completeImage o).path.fwdWait = s.path.fwdWait ∧
    (s.completeImage o).path.presented = s.path.presented ∧ (s.completeImage o).path.lastOwn = s.path.lastOwn ∧
    (s.completeImage o).path.returned = s.path.returned ∧ (s.completeImage o).plan = s.plan ∧
    (s.completeImage o).mem = s.mem ∧ (s.completeImage o).pending = s.pending := by
  simp only [State.completeImage]; (repeat' split) <;> simp

@[simp] theorem State.settle_frame (s : State) (f : Flight) (ok : Bool) :
    (s.settle f ok).src.F = s.src.F ∧ (s.settle f ok).src.lag = s.src.lag ∧
    (s.settle f ok).src.clockLost = s.src.clockLost ∧ (s.settle f ok).src.views = s.src.views ∧
    (s.settle f ok).src.sources = s.src.sources ∧ (s.settle f ok).src.turrets = s.src.turrets ∧
    (s.settle f ok).ring.programs = s.ring.programs ∧ (s.settle f ok).recorder.status = s.recorder.status ∧
    (s.settle f ok).recorder.cap = s.recorder.cap ∧ (s.settle f ok).recorder.producer = s.recorder.producer ∧
    (s.settle f ok).recorder.seconds = s.recorder.seconds ∧
    (s.settle f ok).recorder.frameInSecond = s.recorder.frameInSecond ∧
    (s.settle f ok).recorder.fresh = s.recorder.fresh ∧ (s.settle f ok).recorder.batches = s.recorder.batches ∧
    (s.settle f ok).path.base = s.path.base ∧ (s.settle f ok).path.decodeEn = s.path.decodeEn ∧
    (s.settle f ok).path.resetAsserted = s.path.resetAsserted ∧
    (s.settle f ok).path.partialWrites = s.path.partialWrites ∧ (s.settle f ok).path.fwdWait = s.path.fwdWait ∧
    (s.settle f ok).path.lastOwn = s.path.lastOwn ∧ (s.settle f ok).plan.floor = s.plan.floor ∧
    (s.settle f ok).pending = s.pending := by
  simp only [State.settle, PathSwitch.without]; split <;> simp

@[simp] theorem State.settleAll_frame (s : State) (l : List (Flight × Bool)) :
    (s.settleAll l).src.F = s.src.F ∧ (s.settleAll l).src.lag = s.src.lag ∧
    (s.settleAll l).src.clockLost = s.src.clockLost ∧ (s.settleAll l).src.views = s.src.views ∧
    (s.settleAll l).src.sources = s.src.sources ∧ (s.settleAll l).src.turrets = s.src.turrets ∧
    (s.settleAll l).ring.programs = s.ring.programs ∧ (s.settleAll l).recorder.status = s.recorder.status ∧
    (s.settleAll l).recorder.cap = s.recorder.cap ∧ (s.settleAll l).recorder.producer = s.recorder.producer ∧
    (s.settleAll l).recorder.seconds = s.recorder.seconds ∧
    (s.settleAll l).recorder.frameInSecond = s.recorder.frameInSecond ∧
    (s.settleAll l).recorder.fresh = s.recorder.fresh ∧ (s.settleAll l).recorder.batches = s.recorder.batches ∧
    (s.settleAll l).path.base = s.path.base ∧ (s.settleAll l).path.decodeEn = s.path.decodeEn ∧
    (s.settleAll l).path.resetAsserted = s.path.resetAsserted ∧
    (s.settleAll l).path.partialWrites = s.path.partialWrites ∧ (s.settleAll l).path.fwdWait = s.path.fwdWait ∧
    (s.settleAll l).path.lastOwn = s.path.lastOwn ∧ (s.settleAll l).plan.floor = s.plan.floor ∧
    (s.settleAll l).pending = s.pending := by
  induction l generalizing s with
  | nil => simp [State.settleAll]
  | cons x rest ih => simp [State.settleAll, ih]

@[simp] theorem State.answerFlight_frame (s : State) (id : Nat) (ok : Bool) :
    (s.answerFlight id ok).src.F = s.src.F ∧ (s.answerFlight id ok).src.lag = s.src.lag ∧
    (s.answerFlight id ok).src.clockLost = s.src.clockLost ∧ (s.answerFlight id ok).src.views = s.src.views ∧
    (s.answerFlight id ok).src.sources = s.src.sources ∧ (s.answerFlight id ok).src.turrets = s.src.turrets ∧
    (s.answerFlight id ok).ring.programs = s.ring.programs ∧
    (s.answerFlight id ok).recorder.status = s.recorder.status ∧
    (s.answerFlight id ok).recorder.cap = s.recorder.cap ∧
    (s.answerFlight id ok).recorder.producer = s.recorder.producer ∧
    (s.answerFlight id ok).recorder.seconds = s.recorder.seconds ∧
    (s.answerFlight id ok).recorder.frameInSecond = s.recorder.frameInSecond ∧
    (s.answerFlight id ok).recorder.fresh = s.recorder.fresh ∧
    (s.answerFlight id ok).recorder.batches = s.recorder.batches ∧
    (s.answerFlight id ok).path.base = s.path.base ∧ (s.answerFlight id ok).path.decodeEn = s.path.decodeEn ∧
    (s.answerFlight id ok).path.resetAsserted = s.path.resetAsserted ∧
    (s.answerFlight id ok).path.partialWrites = s.path.partialWrites ∧
    (s.answerFlight id ok).plan.floor = s.plan.floor ∧ (s.answerFlight id ok).pending = s.pending := by
  have e := PathSwitch.presentUntil_frame (s.path.ownWait.length + s.path.fwdWait.length) id s.path
  simp [State.answerFlight, e]

@[simp] theorem State.answerAll_frame (s : State) (l : List Nat) :
    (s.answerAll l).src.F = s.src.F ∧ (s.answerAll l).src.lag = s.src.lag ∧
    (s.answerAll l).src.clockLost = s.src.clockLost ∧ (s.answerAll l).src.views = s.src.views ∧
    (s.answerAll l).src.sources = s.src.sources ∧ (s.answerAll l).src.turrets = s.src.turrets ∧
    (s.answerAll l).ring.programs = s.ring.programs ∧ (s.answerAll l).recorder.status = s.recorder.status ∧
    (s.answerAll l).recorder.cap = s.recorder.cap ∧ (s.answerAll l).recorder.producer = s.recorder.producer ∧
    (s.answerAll l).recorder.seconds = s.recorder.seconds ∧
    (s.answerAll l).recorder.frameInSecond = s.recorder.frameInSecond ∧
    (s.answerAll l).recorder.fresh = s.recorder.fresh ∧ (s.answerAll l).recorder.batches = s.recorder.batches ∧
    (s.answerAll l).path.base = s.path.base ∧ (s.answerAll l).path.decodeEn = s.path.decodeEn ∧
    (s.answerAll l).path.resetAsserted = s.path.resetAsserted ∧
    (s.answerAll l).path.partialWrites = s.path.partialWrites ∧ (s.answerAll l).plan.floor = s.plan.floor ∧
    (s.answerAll l).pending = s.pending := by
  induction l generalizing s with
  | nil => simp [State.answerAll]
  | cons x rest ih => simp [State.answerAll, ih]

@[simp] theorem State.answerNth_frame (s : State) (p : Owner → Bool) (n : Nat) (ok : Bool) :
    (s.answerNth p n ok).src.F = s.src.F ∧ (s.answerNth p n ok).src.lag = s.src.lag ∧
    (s.answerNth p n ok).src.clockLost = s.src.clockLost ∧ (s.answerNth p n ok).src.views = s.src.views ∧
    (s.answerNth p n ok).src.sources = s.src.sources ∧ (s.answerNth p n ok).src.turrets = s.src.turrets ∧
    (s.answerNth p n ok).ring.programs = s.ring.programs ∧
    (s.answerNth p n ok).recorder.status = s.recorder.status ∧
    (s.answerNth p n ok).recorder.cap = s.recorder.cap ∧
    (s.answerNth p n ok).recorder.producer = s.recorder.producer ∧
    (s.answerNth p n ok).recorder.seconds = s.recorder.seconds ∧
    (s.answerNth p n ok).recorder.frameInSecond = s.recorder.frameInSecond ∧
    (s.answerNth p n ok).recorder.fresh = s.recorder.fresh ∧
    (s.answerNth p n ok).recorder.batches = s.recorder.batches ∧ (s.answerNth p n ok).path.base = s.path.base ∧
    (s.answerNth p n ok).path.decodeEn = s.path.decodeEn ∧
    (s.answerNth p n ok).path.resetAsserted = s.path.resetAsserted ∧
    (s.answerNth p n ok).path.partialWrites = s.path.partialWrites ∧
    (s.answerNth p n ok).plan.floor = s.plan.floor ∧ (s.answerNth p n ok).pending = s.pending := by
  simp only [State.answerNth]; (repeat' split) <;> simp

@[simp] theorem State.answerEvery_frame (s : State) (p : Flight → Bool) :
    (s.answerEvery p).src.F = s.src.F ∧ (s.answerEvery p).src.lag = s.src.lag ∧
    (s.answerEvery p).src.clockLost = s.src.clockLost ∧ (s.answerEvery p).src.views = s.src.views ∧
    (s.answerEvery p).src.sources = s.src.sources ∧ (s.answerEvery p).src.turrets = s.src.turrets ∧
    (s.answerEvery p).ring.programs = s.ring.programs ∧ (s.answerEvery p).recorder.status = s.recorder.status ∧
    (s.answerEvery p).recorder.cap = s.recorder.cap ∧
    (s.answerEvery p).recorder.producer = s.recorder.producer ∧
    (s.answerEvery p).recorder.seconds = s.recorder.seconds ∧
    (s.answerEvery p).recorder.frameInSecond = s.recorder.frameInSecond ∧
    (s.answerEvery p).recorder.fresh = s.recorder.fresh ∧
    (s.answerEvery p).recorder.batches = s.recorder.batches ∧ (s.answerEvery p).path.base = s.path.base ∧
    (s.answerEvery p).path.decodeEn = s.path.decodeEn ∧
    (s.answerEvery p).path.resetAsserted = s.path.resetAsserted ∧
    (s.answerEvery p).path.partialWrites = s.path.partialWrites ∧ (s.answerEvery p).plan.floor = s.plan.floor ∧
    (s.answerEvery p).pending = s.pending := by
  simp [State.answerEvery]

@[simp] theorem State.refuse_frame (s : State) (m : Nat) :
    (s.refuse m).src = s.src ∧ (s.refuse m).mix = s.mix ∧ (s.refuse m).line = s.line ∧
    (s.refuse m).ring = s.ring ∧ (s.refuse m).group = s.group ∧ (s.refuse m).recorder = s.recorder ∧
    (s.refuse m).path.base = s.path.base ∧ (s.refuse m).path.decodeEn = s.path.decodeEn ∧
    (s.refuse m).path.resetAsserted = s.path.resetAsserted ∧
    (s.refuse m).path.partialWrites = s.path.partialWrites ∧
    (s.refuse m).path.memoryFaults = s.path.memoryFaults ∧ (s.refuse m).path.faultMark = s.path.faultMark ∧
    (s.refuse m).path.ownWait = s.path.ownWait ∧ (s.refuse m).path.fwdWait = s.path.fwdWait ∧
    (s.refuse m).path.presented = s.path.presented ∧ (s.refuse m).path.lastOwn = s.path.lastOwn ∧
    (s.refuse m).plan = s.plan ∧ (s.refuse m).notice = s.notice ∧ (s.refuse m).mem = s.mem ∧
    (s.refuse m).pending = s.pending := by
  simp [State.refuse]

@[simp] theorem State.forward_frame (s : State) (m a : Nat) (op : BurstOp) (h : Hand) :
    (s.forward m a op h).src = s.src ∧ (s.forward m a op h).mix = s.mix ∧ (s.forward m a op h).line = s.line ∧
    (s.forward m a op h).ring = s.ring ∧ (s.forward m a op h).group = s.group ∧
    (s.forward m a op h).recorder = s.recorder ∧ (s.forward m a op h).path.base = s.path.base ∧
    (s.forward m a op h).path.decodeEn = s.path.decodeEn ∧
    (s.forward m a op h).path.resetAsserted = s.path.resetAsserted ∧
    (s.forward m a op h).path.partialWrites = s.path.partialWrites ∧
    (s.forward m a op h).path.memoryFaults = s.path.memoryFaults ∧
    (s.forward m a op h).path.faultMark = s.path.faultMark ∧
    (s.forward m a op h).path.ownWait = s.path.ownWait ∧
    (s.forward m a op h).path.presented = s.path.presented ∧
    (s.forward m a op h).path.lastOwn = s.path.lastOwn ∧ (s.forward m a op h).plan = s.plan ∧
    (s.forward m a op h).notice = s.notice ∧ (s.forward m a op h).mem = s.mem ∧
    (s.forward m a op h).pending = s.pending := by
  simp [State.forward]

@[simp] theorem State.homeRead_frame (s : State) (m i q : Nat) (o : ByteOrder) :
    (s.homeRead m i q o).src = s.src ∧ (s.homeRead m i q o).mix = s.mix ∧ (s.homeRead m i q o).line = s.line ∧
    (s.homeRead m i q o).ring = s.ring ∧ (s.homeRead m i q o).group = s.group ∧
    (s.homeRead m i q o).recorder = s.recorder ∧ (s.homeRead m i q o).path.base = s.path.base ∧
    (s.homeRead m i q o).path.decodeEn = s.path.decodeEn ∧
    (s.homeRead m i q o).path.resetAsserted = s.path.resetAsserted ∧
    (s.homeRead m i q o).path.partialWrites = s.path.partialWrites ∧
    (s.homeRead m i q o).path.memoryFaults = s.path.memoryFaults ∧
    (s.homeRead m i q o).path.faultMark = s.path.faultMark ∧
    (s.homeRead m i q o).path.fwdWait = s.path.fwdWait ∧
    (s.homeRead m i q o).path.presented = s.path.presented ∧
    (s.homeRead m i q o).path.lastOwn = s.path.lastOwn ∧ (s.homeRead m i q o).plan = s.plan ∧
    (s.homeRead m i q o).notice = s.notice ∧ (s.homeRead m i q o).mem = s.mem ∧
    (s.homeRead m i q o).pending = s.pending := by
  simp [State.homeRead]

@[simp] theorem State.listenRead_frame (s : State) (m u : Nat) (o : ByteOrder) :
    (s.listenRead m u o).src = s.src ∧ (s.listenRead m u o).mix.slots = s.mix.slots ∧
    (s.listenRead m u o).mix.buses = s.mix.buses ∧ (s.listenRead m u o).line = s.line ∧
    (s.listenRead m u o).ring = s.ring ∧ (s.listenRead m u o).group = s.group ∧
    (s.listenRead m u o).recorder = s.recorder ∧ (s.listenRead m u o).path.base = s.path.base ∧
    (s.listenRead m u o).path.decodeEn = s.path.decodeEn ∧
    (s.listenRead m u o).path.resetAsserted = s.path.resetAsserted ∧
    (s.listenRead m u o).path.partialWrites = s.path.partialWrites ∧
    (s.listenRead m u o).path.memoryFaults = s.path.memoryFaults ∧
    (s.listenRead m u o).path.faultMark = s.path.faultMark ∧
    (s.listenRead m u o).path.fwdWait = s.path.fwdWait ∧
    (s.listenRead m u o).path.presented = s.path.presented ∧
    (s.listenRead m u o).path.lastOwn = s.path.lastOwn ∧ (s.listenRead m u o).plan = s.plan ∧
    (s.listenRead m u o).notice = s.notice ∧ (s.listenRead m u o).mem = s.mem ∧
    (s.listenRead m u o).pending = s.pending := by
  simp only [State.listenRead]; (repeat' split) <;> simp

@[simp] theorem State.talkHalf_frame (s : State) (m v w : Nat) (op : BurstOp) :
    (s.talkHalf m v w op).src.F = s.src.F ∧ (s.talkHalf m v w op).src.lag = s.src.lag ∧
    (s.talkHalf m v w op).src.clockLost = s.src.clockLost ∧
    (s.talkHalf m v w op).src.snapPending = s.src.snapPending ∧
    (s.talkHalf m v w op).src.snapDeferred = s.src.snapDeferred ∧
    (s.talkHalf m v w op).src.levelImage = s.src.levelImage ∧ (s.talkHalf m v w op).line = s.line ∧
    (s.talkHalf m v w op).ring.programs = s.ring.programs ∧ (s.talkHalf m v w op).group = s.group ∧
    (s.talkHalf m v w op).recorder = s.recorder ∧ (s.talkHalf m v w op).path.base = s.path.base ∧
    (s.talkHalf m v w op).path.decodeEn = s.path.decodeEn ∧
    (s.talkHalf m v w op).path.resetAsserted = s.path.resetAsserted ∧
    (s.talkHalf m v w op).path.partialWrites = s.path.partialWrites ∧
    (s.talkHalf m v w op).path.memoryFaults = s.path.memoryFaults ∧
    (s.talkHalf m v w op).path.faultMark = s.path.faultMark ∧
    (s.talkHalf m v w op).path.fwdWait = s.path.fwdWait ∧
    (s.talkHalf m v w op).path.presented = s.path.presented ∧
    (s.talkHalf m v w op).path.lastOwn = s.path.lastOwn ∧ (s.talkHalf m v w op).plan = s.plan ∧
    (s.talkHalf m v w op).notice.imagePending = s.notice.imagePending ∧
    (s.talkHalf m v w op).notice.imageDeferred = s.notice.imageDeferred ∧
    (s.talkHalf m v w op).notice.image = s.notice.image ∧ (s.talkHalf m v w op).mem = s.mem ∧
    (s.talkHalf m v w op).pending = s.pending := by
  simp only [State.talkHalf]; (repeat' split) <;> simp

@[simp] theorem State.viewBurst_frame (s : State) (m w : Nat) (op : BurstOp) :
    (s.viewBurst m w op).src.F = s.src.F ∧ (s.viewBurst m w op).src.lag = s.src.lag ∧
    (s.viewBurst m w op).src.clockLost = s.src.clockLost ∧
    (s.viewBurst m w op).src.snapPending = s.src.snapPending ∧
    (s.viewBurst m w op).src.snapDeferred = s.src.snapDeferred ∧
    (s.viewBurst m w op).src.levelImage = s.src.levelImage ∧ (s.viewBurst m w op).line = s.line ∧
    (s.viewBurst m w op).ring.programs = s.ring.programs ∧ (s.viewBurst m w op).group = s.group ∧
    (s.viewBurst m w op).recorder = s.recorder ∧ (s.viewBurst m w op).path.base = s.path.base ∧
    (s.viewBurst m w op).path.decodeEn = s.path.decodeEn ∧
    (s.viewBurst m w op).path.resetAsserted = s.path.resetAsserted ∧
    (s.viewBurst m w op).path.partialWrites = s.path.partialWrites ∧
    (s.viewBurst m w op).path.memoryFaults = s.path.memoryFaults ∧
    (s.viewBurst m w op).path.faultMark = s.path.faultMark ∧
    (s.viewBurst m w op).path.fwdWait = s.path.fwdWait ∧
    (s.viewBurst m w op).path.presented = s.path.presented ∧
    (s.viewBurst m w op).path.lastOwn = s.path.lastOwn ∧ (s.viewBurst m w op).plan = s.plan ∧
    (s.viewBurst m w op).notice.imagePending = s.notice.imagePending ∧
    (s.viewBurst m w op).notice.imageDeferred = s.notice.imageDeferred ∧
    (s.viewBurst m w op).notice.image = s.notice.image ∧ (s.viewBurst m w op).mem = s.mem ∧
    (s.viewBurst m w op).pending = s.pending := by
  simp only [State.viewBurst]; (repeat' split) <;> simp

@[simp] theorem State.countPartial_frame (s : State) :
    (s.countPartial).src = s.src ∧ (s.countPartial).mix = s.mix ∧ (s.countPartial).line = s.line ∧
    (s.countPartial).ring = s.ring ∧ (s.countPartial).group = s.group ∧ (s.countPartial).recorder = s.recorder ∧
    (s.countPartial).path.base = s.path.base ∧ (s.countPartial).path.decodeEn = s.path.decodeEn ∧
    (s.countPartial).path.resetAsserted = s.path.resetAsserted ∧ (s.countPartial).path.queues = s.path.queues ∧
    (s.countPartial).path.memoryFaults = s.path.memoryFaults ∧
    (s.countPartial).path.faultMark = s.path.faultMark ∧ (s.countPartial).path.ownWait = s.path.ownWait ∧
    (s.countPartial).path.fwdWait = s.path.fwdWait ∧ (s.countPartial).path.presented = s.path.presented ∧
    (s.countPartial).path.lastOwn = s.path.lastOwn ∧ (s.countPartial).path.nextId = s.path.nextId ∧
    (s.countPartial).path.returned = s.path.returned ∧ (s.countPartial).plan = s.plan ∧
    (s.countPartial).notice = s.notice ∧ (s.countPartial).mem = s.mem ∧
    (s.countPartial).pending = s.pending := by
  simp [State.countPartial]

@[simp] theorem State.takeInside_frame (s : State) (m a w : Nat) (op : BurstOp) :
    (s.takeInside m a w op).src.F = s.src.F ∧ (s.takeInside m a w op).src.lag = s.src.lag ∧
    (s.takeInside m a w op).src.clockLost = s.src.clockLost ∧
    (s.takeInside m a w op).src.snapPending = s.src.snapPending ∧
    (s.takeInside m a w op).src.snapDeferred = s.src.snapDeferred ∧
    (s.takeInside m a w op).src.levelImage = s.src.levelImage ∧ (s.takeInside m a w op).line = s.line ∧
    (s.takeInside m a w op).ring.programs = s.ring.programs ∧ (s.takeInside m a w op).group = s.group ∧
    (s.takeInside m a w op).recorder = s.recorder ∧ (s.takeInside m a w op).path.base = s.path.base ∧
    (s.takeInside m a w op).path.decodeEn = s.path.decodeEn ∧
    (s.takeInside m a w op).path.resetAsserted = s.path.resetAsserted ∧
    (s.takeInside m a w op).path.memoryFaults = s.path.memoryFaults ∧
    (s.takeInside m a w op).path.faultMark = s.path.faultMark ∧
    (s.takeInside m a w op).path.presented = s.path.presented ∧
    (s.takeInside m a w op).path.lastOwn = s.path.lastOwn ∧ (s.takeInside m a w op).plan = s.plan ∧
    (s.takeInside m a w op).notice.imagePending = s.notice.imagePending ∧
    (s.takeInside m a w op).notice.imageDeferred = s.notice.imageDeferred ∧
    (s.takeInside m a w op).notice.image = s.notice.image ∧ (s.takeInside m a w op).mem = s.mem ∧
    (s.takeInside m a w op).pending = s.pending := by
  simp only [State.takeInside]; (repeat' split) <;> simp

@[simp] theorem State.takeBurst_frame (s : State) (m a : Nat) (op : BurstOp) :
    (s.takeBurst m a op).src.F = s.src.F ∧ (s.takeBurst m a op).src.lag = s.src.lag ∧
    (s.takeBurst m a op).src.clockLost = s.src.clockLost ∧
    (s.takeBurst m a op).src.snapPending = s.src.snapPending ∧
    (s.takeBurst m a op).src.snapDeferred = s.src.snapDeferred ∧
    (s.takeBurst m a op).src.levelImage = s.src.levelImage ∧ (s.takeBurst m a op).line = s.line ∧
    (s.takeBurst m a op).ring.programs = s.ring.programs ∧ (s.takeBurst m a op).group = s.group ∧
    (s.takeBurst m a op).recorder = s.recorder ∧ (s.takeBurst m a op).path.base = s.path.base ∧
    (s.takeBurst m a op).path.decodeEn = s.path.decodeEn ∧
    (s.takeBurst m a op).path.resetAsserted = s.path.resetAsserted ∧
    (s.takeBurst m a op).path.memoryFaults = s.path.memoryFaults ∧
    (s.takeBurst m a op).path.faultMark = s.path.faultMark ∧
    (s.takeBurst m a op).path.presented = s.path.presented ∧
    (s.takeBurst m a op).path.lastOwn = s.path.lastOwn ∧ (s.takeBurst m a op).plan = s.plan ∧
    (s.takeBurst m a op).notice.imagePending = s.notice.imagePending ∧
    (s.takeBurst m a op).notice.imageDeferred = s.notice.imageDeferred ∧
    (s.takeBurst m a op).notice.image = s.notice.image ∧ (s.takeBurst m a op).mem = s.mem ∧
    (s.takeBurst m a op).pending = s.pending := by
  simp only [State.takeBurst]; (repeat' split) <;> simp

@[simp] theorem State.takeAnswered_frame (s : State) (m a : Nat) (op : BurstOp) (ans : MemAnswer) :
    (s.takeAnswered m a op ans).src.F = s.src.F ∧ (s.takeAnswered m a op ans).src.lag = s.src.lag ∧
    (s.takeAnswered m a op ans).src.clockLost = s.src.clockLost ∧
    (s.takeAnswered m a op ans).ring.programs = s.ring.programs ∧
    (s.takeAnswered m a op ans).recorder.status = s.recorder.status ∧
    (s.takeAnswered m a op ans).recorder.cap = s.recorder.cap ∧
    (s.takeAnswered m a op ans).recorder.producer = s.recorder.producer ∧
    (s.takeAnswered m a op ans).recorder.seconds = s.recorder.seconds ∧
    (s.takeAnswered m a op ans).recorder.frameInSecond = s.recorder.frameInSecond ∧
    (s.takeAnswered m a op ans).recorder.fresh = s.recorder.fresh ∧
    (s.takeAnswered m a op ans).recorder.batches = s.recorder.batches ∧
    (s.takeAnswered m a op ans).path.base = s.path.base ∧
    (s.takeAnswered m a op ans).path.decodeEn = s.path.decodeEn ∧
    (s.takeAnswered m a op ans).path.resetAsserted = s.path.resetAsserted ∧
    (s.takeAnswered m a op ans).plan.floor = s.plan.floor ∧
    (s.takeAnswered m a op ans).pending = s.pending := by
  simp only [State.takeAnswered]; (repeat' split) <;> simp

@[simp] theorem State.completeListen_frame (s : State) (n : Nat) :
    (s.completeListen n).src.F = s.src.F ∧ (s.completeListen n).src.lag = s.src.lag ∧
    (s.completeListen n).src.clockLost = s.src.clockLost ∧ (s.completeListen n).src.views = s.src.views ∧
    (s.completeListen n).src.sources = s.src.sources ∧ (s.completeListen n).src.turrets = s.src.turrets ∧
    (s.completeListen n).ring.programs = s.ring.programs ∧
    (s.completeListen n).recorder.status = s.recorder.status ∧
    (s.completeListen n).recorder.cap = s.recorder.cap ∧
    (s.completeListen n).recorder.producer = s.recorder.producer ∧
    (s.completeListen n).recorder.seconds = s.recorder.seconds ∧
    (s.completeListen n).recorder.frameInSecond = s.recorder.frameInSecond ∧
    (s.completeListen n).recorder.fresh = s.recorder.fresh ∧
    (s.completeListen n).recorder.batches = s.recorder.batches ∧ (s.completeListen n).path.base = s.path.base ∧
    (s.completeListen n).path.decodeEn = s.path.decodeEn ∧
    (s.completeListen n).path.resetAsserted = s.path.resetAsserted ∧
    (s.completeListen n).path.partialWrites = s.path.partialWrites ∧
    (s.completeListen n).plan.floor = s.plan.floor ∧ (s.completeListen n).pending = s.pending := by
  simp only [State.completeListen]; (repeat' split) <;> simp

@[simp] theorem State.placeRecord_frame (s : State) :
    (s.placeRecord).src.F = s.src.F ∧ (s.placeRecord).src.lag = s.src.lag ∧
    (s.placeRecord).src.clockLost = s.src.clockLost ∧ (s.placeRecord).src.views = s.src.views ∧
    (s.placeRecord).src.sources = s.src.sources ∧ (s.placeRecord).src.turrets = s.src.turrets ∧
    (s.placeRecord).ring.programs = s.ring.programs ∧ (s.placeRecord).recorder.cap = s.recorder.cap ∧
    (s.placeRecord).recorder.seconds = s.recorder.seconds ∧
    (s.placeRecord).recorder.frameInSecond = s.recorder.frameInSecond ∧
    (s.placeRecord).recorder.fresh = s.recorder.fresh ∧ (s.placeRecord).path.base = s.path.base ∧
    (s.placeRecord).path.decodeEn = s.path.decodeEn ∧
    (s.placeRecord).path.resetAsserted = s.path.resetAsserted ∧
    (s.placeRecord).path.partialWrites = s.path.partialWrites ∧ (s.placeRecord).plan.floor = s.plan.floor ∧
    (s.placeRecord).pending = s.pending := by
  simp only [State.placeRecord]; (repeat' split) <;> simp

@[simp] theorem State.recordProgress_frame (s : State) :
    (s.recordProgress).src.F = s.src.F ∧ (s.recordProgress).src.lag = s.src.lag ∧
    (s.recordProgress).src.clockLost = s.src.clockLost ∧ (s.recordProgress).src.views = s.src.views ∧
    (s.recordProgress).src.sources = s.src.sources ∧ (s.recordProgress).src.turrets = s.src.turrets ∧
    (s.recordProgress).ring.programs = s.ring.programs ∧
    (s.recordProgress).recorder.status = s.recorder.status ∧ (s.recordProgress).recorder.cap = s.recorder.cap ∧
    (s.recordProgress).recorder.producer = s.recorder.producer ∧
    (s.recordProgress).recorder.seconds = s.recorder.seconds ∧
    (s.recordProgress).recorder.frameInSecond = s.recorder.frameInSecond ∧
    (s.recordProgress).recorder.fresh = s.recorder.fresh ∧ (s.recordProgress).path.base = s.path.base ∧
    (s.recordProgress).path.decodeEn = s.path.decodeEn ∧
    (s.recordProgress).path.resetAsserted = s.path.resetAsserted ∧
    (s.recordProgress).path.partialWrites = s.path.partialWrites ∧
    (s.recordProgress).plan.floor = s.plan.floor ∧ (s.recordProgress).pending = s.pending := by
  simp only [State.recordProgress]; (repeat' split) <;> simp

@[simp] theorem State.publish_frame (s : State) (k q : Nat) :
    (s.publish k q).src.F = s.src.F ∧ (s.publish k q).src.lag = s.src.lag ∧
    (s.publish k q).src.clockLost = s.src.clockLost ∧ (s.publish k q).src.views = s.src.views ∧
    (s.publish k q).src.sources = s.src.sources ∧ (s.publish k q).src.turrets = s.src.turrets ∧
    (s.publish k q).ring.programs = s.ring.programs ∧ (s.publish k q).recorder.status = s.recorder.status ∧
    (s.publish k q).recorder.cap = s.recorder.cap ∧ (s.publish k q).recorder.producer = s.recorder.producer ∧
    (s.publish k q).recorder.seconds = s.recorder.seconds ∧
    (s.publish k q).recorder.frameInSecond = s.recorder.frameInSecond ∧
    (s.publish k q).recorder.fresh = s.recorder.fresh ∧ (s.publish k q).recorder.batches = s.recorder.batches ∧
    (s.publish k q).path.base = s.path.base ∧ (s.publish k q).path.decodeEn = s.path.decodeEn ∧
    (s.publish k q).path.resetAsserted = s.path.resetAsserted ∧
    (s.publish k q).path.partialWrites = s.path.partialWrites ∧ (s.publish k q).plan.floor = s.plan.floor ∧
    (s.publish k q).pending = s.pending := by
  simp only [State.publish]; (repeat' split) <;> simp

@[simp] theorem State.levelsDone_frame (s : State) :
    (s.levelsDone).src.F = s.src.F ∧ (s.levelsDone).src.lag = s.src.lag ∧
    (s.levelsDone).src.clockLost = s.src.clockLost ∧ (s.levelsDone).src.views = s.src.views ∧
    (s.levelsDone).src.sources = s.src.sources ∧ (s.levelsDone).src.turrets = s.src.turrets ∧
    (s.levelsDone).ring.programs = s.ring.programs ∧ (s.levelsDone).recorder.status = s.recorder.status ∧
    (s.levelsDone).recorder.cap = s.recorder.cap ∧ (s.levelsDone).recorder.producer = s.recorder.producer ∧
    (s.levelsDone).recorder.seconds = s.recorder.seconds ∧
    (s.levelsDone).recorder.frameInSecond = s.recorder.frameInSecond ∧
    (s.levelsDone).recorder.fresh = s.recorder.fresh ∧ (s.levelsDone).recorder.batches = s.recorder.batches ∧
    (s.levelsDone).path.base = s.path.base ∧ (s.levelsDone).path.decodeEn = s.path.decodeEn ∧
    (s.levelsDone).path.resetAsserted = s.path.resetAsserted ∧
    (s.levelsDone).path.partialWrites = s.path.partialWrites ∧ (s.levelsDone).plan.floor = s.plan.floor ∧
    (s.levelsDone).pending = s.pending := by
  simp only [State.levelsDone]; (repeat' split) <;> simp

@[simp] theorem State.stateDone_frame (s : State) :
    (s.stateDone).src.F = s.src.F ∧ (s.stateDone).src.lag = s.src.lag ∧
    (s.stateDone).src.clockLost = s.src.clockLost ∧ (s.stateDone).src.views = s.src.views ∧
    (s.stateDone).src.sources = s.src.sources ∧ (s.stateDone).src.turrets = s.src.turrets ∧
    (s.stateDone).ring.programs = s.ring.programs ∧ (s.stateDone).recorder.status = s.recorder.status ∧
    (s.stateDone).recorder.cap = s.recorder.cap ∧ (s.stateDone).recorder.producer = s.recorder.producer ∧
    (s.stateDone).recorder.seconds = s.recorder.seconds ∧
    (s.stateDone).recorder.frameInSecond = s.recorder.frameInSecond ∧
    (s.stateDone).recorder.fresh = s.recorder.fresh ∧ (s.stateDone).recorder.batches = s.recorder.batches ∧
    (s.stateDone).path.base = s.path.base ∧ (s.stateDone).path.decodeEn = s.path.decodeEn ∧
    (s.stateDone).path.resetAsserted = s.path.resetAsserted ∧
    (s.stateDone).path.partialWrites = s.path.partialWrites ∧ (s.stateDone).plan.floor = s.plan.floor ∧
    (s.stateDone).pending = s.pending := by
  simp only [State.stateDone]; (repeat' split) <;> simp

end Sys2Proof.Machine
end

