-- ==== Sys2Proof/Laws/CloseFrames.lean ====
section
/-!
SUPPORT. The frames of the work of a close (Machine/Close.lean). Each lemma says which parts of the state an
operation leaves as they were, so that no later proof unfolds it for that.
-/

namespace Sys2Proof.Machine

@[simp] theorem State.loseClock_frame (s : State) :
    (s.loseClock).src.F = s.src.F ∧ (s.loseClock).src.lag = s.src.lag ∧ (s.loseClock).src.views = s.src.views ∧
    (s.loseClock).src.sources = s.src.sources ∧ (s.loseClock).src.turrets = s.src.turrets ∧
    (s.loseClock).src.snapPending = s.src.snapPending ∧ (s.loseClock).src.snapDeferred = s.src.snapDeferred ∧
    (s.loseClock).src.levelImage = s.src.levelImage ∧ (s.loseClock).mix = s.mix ∧ (s.loseClock).line = s.line ∧
    (s.loseClock).ring = s.ring ∧ (s.loseClock).group = s.group ∧ (s.loseClock).recorder = s.recorder ∧
    (s.loseClock).path.base = s.path.base ∧ (s.loseClock).path.decodeEn = s.path.decodeEn ∧
    (s.loseClock).path.resetAsserted = s.path.resetAsserted ∧ (s.loseClock).path.queues = s.path.queues ∧
    (s.loseClock).path.partialWrites = s.path.partialWrites ∧
    (s.loseClock).path.memoryFaults = s.path.memoryFaults ∧ (s.loseClock).path.faultMark = s.path.faultMark ∧
    (s.loseClock).path.fwdWait = s.path.fwdWait ∧ (s.loseClock).path.presented = s.path.presented ∧
    (s.loseClock).path.lastOwn = s.path.lastOwn ∧ (s.loseClock).path.returned = s.path.returned ∧
    (s.loseClock).plan = s.plan ∧ (s.loseClock).notice.imagePending = s.notice.imagePending ∧
    (s.loseClock).notice.imageDeferred = s.notice.imageDeferred ∧ (s.loseClock).notice.image = s.notice.image ∧
    (s.loseClock).mem = s.mem ∧ (s.loseClock).pending = s.pending := by
  simp [State.loseClock]

@[simp] theorem State.restoreClock_frame (s : State) :
    (s.restoreClock).src.F = s.src.F ∧ (s.restoreClock).src.lag = s.src.lag ∧
    (s.restoreClock).src.views = s.src.views ∧ (s.restoreClock).src.sources = s.src.sources ∧
    (s.restoreClock).src.turrets = s.src.turrets ∧ (s.restoreClock).src.snapPending = s.src.snapPending ∧
    (s.restoreClock).src.snapDeferred = s.src.snapDeferred ∧
    (s.restoreClock).src.levelImage = s.src.levelImage ∧ (s.restoreClock).mix = s.mix ∧
    (s.restoreClock).line = s.line ∧ (s.restoreClock).ring = s.ring ∧ (s.restoreClock).group = s.group ∧
    (s.restoreClock).recorder = s.recorder ∧ (s.restoreClock).path.base = s.path.base ∧
    (s.restoreClock).path.decodeEn = s.path.decodeEn ∧
    (s.restoreClock).path.resetAsserted = s.path.resetAsserted ∧ (s.restoreClock).path.queues = s.path.queues ∧
    (s.restoreClock).path.partialWrites = s.path.partialWrites ∧
    (s.restoreClock).path.memoryFaults = s.path.memoryFaults ∧
    (s.restoreClock).path.faultMark = s.path.faultMark ∧ (s.restoreClock).path.fwdWait = s.path.fwdWait ∧
    (s.restoreClock).path.presented = s.path.presented ∧ (s.restoreClock).path.lastOwn = s.path.lastOwn ∧
    (s.restoreClock).path.returned = s.path.returned ∧ (s.restoreClock).plan = s.plan ∧
    (s.restoreClock).notice.imagePending = s.notice.imagePending ∧
    (s.restoreClock).notice.imageDeferred = s.notice.imageDeferred ∧
    (s.restoreClock).notice.image = s.notice.image ∧ (s.restoreClock).mem = s.mem ∧
    (s.restoreClock).pending = s.pending := by
  simp only [State.restoreClock]; (repeat' split) <;> simp

@[simp] theorem State.writeOutbounds_frame (s : State) (l : List Nat) :
    (s.writeOutbounds l).src = s.src ∧ (s.writeOutbounds l).mix = s.mix ∧ (s.writeOutbounds l).line = s.line ∧
    (s.writeOutbounds l).ring = s.ring ∧ (s.writeOutbounds l).group = s.group ∧
    (s.writeOutbounds l).recorder = s.recorder ∧ (s.writeOutbounds l).path.base = s.path.base ∧
    (s.writeOutbounds l).path.decodeEn = s.path.decodeEn ∧
    (s.writeOutbounds l).path.resetAsserted = s.path.resetAsserted ∧
    (s.writeOutbounds l).path.queues = s.path.queues ∧
    (s.writeOutbounds l).path.partialWrites = s.path.partialWrites ∧
    (s.writeOutbounds l).path.memoryFaults = s.path.memoryFaults ∧
    (s.writeOutbounds l).path.faultMark = s.path.faultMark ∧
    (s.writeOutbounds l).path.fwdWait = s.path.fwdWait ∧
    (s.writeOutbounds l).path.presented = s.path.presented ∧
    (s.writeOutbounds l).path.lastOwn = s.path.lastOwn ∧ (s.writeOutbounds l).path.returned = s.path.returned ∧
    (s.writeOutbounds l).plan = s.plan ∧ (s.writeOutbounds l).notice = s.notice ∧
    (s.writeOutbounds l).mem = s.mem ∧ (s.writeOutbounds l).pending = s.pending := by
  induction l generalizing s with
  | nil => simp [State.writeOutbounds]
  | cons x rest ih => simp [State.writeOutbounds, ih]

@[simp] theorem State.emptyRing_frame (s : State) (k : Nat) :
    (s.emptyRing k).src = s.src ∧ (s.emptyRing k).mix = s.mix ∧ (s.emptyRing k).line = s.line ∧
    (s.emptyRing k).ring = s.ring ∧ (s.emptyRing k).group = s.group ∧ (s.emptyRing k).recorder = s.recorder ∧
    (s.emptyRing k).path.base = s.path.base ∧ (s.emptyRing k).path.decodeEn = s.path.decodeEn ∧
    (s.emptyRing k).path.resetAsserted = s.path.resetAsserted ∧ (s.emptyRing k).path.queues = s.path.queues ∧
    (s.emptyRing k).path.partialWrites = s.path.partialWrites ∧
    (s.emptyRing k).path.memoryFaults = s.path.memoryFaults ∧
    (s.emptyRing k).path.faultMark = s.path.faultMark ∧ (s.emptyRing k).path.fwdWait = s.path.fwdWait ∧
    (s.emptyRing k).path.presented = s.path.presented ∧ (s.emptyRing k).path.lastOwn = s.path.lastOwn ∧
    (s.emptyRing k).path.returned = s.path.returned ∧ (s.emptyRing k).plan = s.plan ∧
    (s.emptyRing k).notice.imagePending = s.notice.imagePending ∧
    (s.emptyRing k).notice.imageDeferred = s.notice.imageDeferred ∧
    (s.emptyRing k).notice.image = s.notice.image ∧ (s.emptyRing k).mem = s.mem ∧
    (s.emptyRing k).pending = s.pending := by
  simp [State.emptyRing]

@[simp] theorem State.restartState_frame (s : State) :
    (s.restartState).src.F = s.src.F ∧ (s.restartState).src.clockLost = s.src.clockLost ∧
    (s.restartState).src.snapPending = s.src.snapPending ∧
    (s.restartState).src.snapDeferred = s.src.snapDeferred ∧
    (s.restartState).src.levelImage = s.src.levelImage ∧ (s.restartState).mix.listens = s.mix.listens ∧
    (s.restartState).ring.programs = s.ring.programs ∧ (s.restartState).recorder.seconds = s.recorder.seconds ∧
    (s.restartState).recorder.frameInSecond = s.recorder.frameInSecond ∧
    (s.restartState).recorder.fresh = s.recorder.fresh ∧ (s.restartState).recorder.staged = s.recorder.staged ∧
    (s.restartState).path.base = s.path.base ∧ (s.restartState).path.decodeEn = s.path.decodeEn ∧
    (s.restartState).path.resetAsserted = s.path.resetAsserted ∧ (s.restartState).path.queues = s.path.queues ∧
    (s.restartState).path.faultMark = s.path.faultMark ∧ (s.restartState).path.ownWait = s.path.ownWait ∧
    (s.restartState).path.fwdWait = s.path.fwdWait ∧ (s.restartState).path.presented = s.path.presented ∧
    (s.restartState).path.lastOwn = s.path.lastOwn ∧ (s.restartState).path.nextId = s.path.nextId ∧
    (s.restartState).path.returned = s.path.returned ∧ (s.restartState).plan = s.plan ∧
    (s.restartState).notice = s.notice ∧ (s.restartState).mem = s.mem ∧
    (s.restartState).pending = s.pending := by
  simp [State.restartState, SourceUnit.restart, MixEngine.restart, RecordUnit.restart]

@[simp] theorem State.restartClear_frame (s : State) :
    (s.restartClear).src.F = s.src.F ∧ (s.restartClear).src.clockLost = s.src.clockLost ∧
    (s.restartClear).src.snapPending = s.src.snapPending ∧
    (s.restartClear).src.snapDeferred = s.src.snapDeferred ∧
    (s.restartClear).src.levelImage = s.src.levelImage ∧ (s.restartClear).mix.listens = s.mix.listens ∧
    (s.restartClear).ring.programs = s.ring.programs ∧ (s.restartClear).recorder.seconds = s.recorder.seconds ∧
    (s.restartClear).recorder.frameInSecond = s.recorder.frameInSecond ∧
    (s.restartClear).recorder.fresh = s.recorder.fresh ∧ (s.restartClear).recorder.staged = s.recorder.staged ∧
    (s.restartClear).path.base = s.path.base ∧ (s.restartClear).path.decodeEn = s.path.decodeEn ∧
    (s.restartClear).path.resetAsserted = s.path.resetAsserted ∧ (s.restartClear).path.queues = s.path.queues ∧
    (s.restartClear).path.faultMark = s.path.faultMark ∧ (s.restartClear).path.fwdWait = s.path.fwdWait ∧
    (s.restartClear).path.presented = s.path.presented ∧ (s.restartClear).path.lastOwn = s.path.lastOwn ∧
    (s.restartClear).path.returned = s.path.returned ∧ (s.restartClear).plan = s.plan ∧
    (s.restartClear).notice.imagePending = s.notice.imagePending ∧
    (s.restartClear).notice.imageDeferred = s.notice.imageDeferred ∧
    (s.restartClear).notice.image = s.notice.image ∧ (s.restartClear).mem = s.mem ∧
    (s.restartClear).pending = s.pending := by
  simp [State.restartClear]

@[simp] theorem State.beginClose_frame (s : State) :
    (s.beginClose).src.lag = s.src.lag ∧ (s.beginClose).src.views = s.src.views ∧
    (s.beginClose).src.sources = s.src.sources ∧ (s.beginClose).src.turrets = s.src.turrets ∧
    (s.beginClose).src.snapPending = s.src.snapPending ∧ (s.beginClose).src.snapDeferred = s.src.snapDeferred ∧
    (s.beginClose).src.levelImage = s.src.levelImage ∧ (s.beginClose).mix = s.mix ∧
    (s.beginClose).line = s.line ∧ (s.beginClose).ring = s.ring ∧ (s.beginClose).group = s.group ∧
    (s.beginClose).recorder = s.recorder ∧ (s.beginClose).path.base = s.path.base ∧
    (s.beginClose).path.decodeEn = s.path.decodeEn ∧ (s.beginClose).path.resetAsserted = s.path.resetAsserted ∧
    (s.beginClose).path.queues = s.path.queues ∧ (s.beginClose).path.partialWrites = s.path.partialWrites ∧
    (s.beginClose).path.memoryFaults = s.path.memoryFaults ∧ (s.beginClose).path.fwdWait = s.path.fwdWait ∧
    (s.beginClose).path.presented = s.path.presented ∧ (s.beginClose).path.lastOwn = s.path.lastOwn ∧
    (s.beginClose).path.returned = s.path.returned ∧ (s.beginClose).plan = s.plan ∧
    (s.beginClose).notice.imagePending = s.notice.imagePending ∧
    (s.beginClose).notice.imageDeferred = s.notice.imageDeferred ∧
    (s.beginClose).notice.image = s.notice.image ∧ (s.beginClose).mem = s.mem ∧
    (s.beginClose).pending = s.pending := by
  simp [State.beginClose]

@[simp] theorem State.closeEdits_frame (s : State) :
    (s.closeEdits).src.F = s.src.F ∧ (s.closeEdits).src.clockLost = s.src.clockLost ∧
    (s.closeEdits).src.snapPending = s.src.snapPending ∧ (s.closeEdits).src.snapDeferred = s.src.snapDeferred ∧
    (s.closeEdits).src.levelImage = s.src.levelImage ∧ (s.closeEdits).mix.listens = s.mix.listens ∧
    (s.closeEdits).ring.programs = s.ring.programs ∧ (s.closeEdits).recorder.seconds = s.recorder.seconds ∧
    (s.closeEdits).recorder.frameInSecond = s.recorder.frameInSecond ∧
    (s.closeEdits).recorder.fresh = s.recorder.fresh ∧ (s.closeEdits).recorder.staged = s.recorder.staged ∧
    (s.closeEdits).path.base = s.path.base ∧ (s.closeEdits).path.decodeEn = s.path.decodeEn ∧
    (s.closeEdits).path.resetAsserted = s.path.resetAsserted ∧ (s.closeEdits).path.queues = s.path.queues ∧
    (s.closeEdits).path.faultMark = s.path.faultMark ∧ (s.closeEdits).path.fwdWait = s.path.fwdWait ∧
    (s.closeEdits).path.presented = s.path.presented ∧ (s.closeEdits).path.lastOwn = s.path.lastOwn ∧
    (s.closeEdits).path.returned = s.path.returned ∧ (s.closeEdits).plan = s.plan ∧
    (s.closeEdits).notice.imagePending = s.notice.imagePending ∧
    (s.closeEdits).notice.imageDeferred = s.notice.imageDeferred ∧
    (s.closeEdits).notice.image = s.notice.image ∧ (s.closeEdits).mem = s.mem ∧
    (s.closeEdits).pending = s.pending := by
  simp only [State.closeEdits, MixEngine.applyEdits]; split <;> simp

@[simp] theorem State.clearCounts_frame (s : State) :
    (s.clearCounts).src.F = s.src.F ∧ (s.clearCounts).src.lag = s.src.lag ∧
    (s.clearCounts).src.clockLost = s.src.clockLost ∧ (s.clearCounts).src.views = s.src.views ∧
    (s.clearCounts).src.turrets = s.src.turrets ∧ (s.clearCounts).src.snapPending = s.src.snapPending ∧
    (s.clearCounts).src.snapDeferred = s.src.snapDeferred ∧ (s.clearCounts).src.levelImage = s.src.levelImage ∧
    (s.clearCounts).mix = s.mix ∧ (s.clearCounts).line = s.line ∧ (s.clearCounts).ring = s.ring ∧
    (s.clearCounts).group = s.group ∧ (s.clearCounts).recorder = s.recorder ∧
    (s.clearCounts).path.base = s.path.base ∧ (s.clearCounts).path.decodeEn = s.path.decodeEn ∧
    (s.clearCounts).path.resetAsserted = s.path.resetAsserted ∧ (s.clearCounts).path.queues = s.path.queues ∧
    (s.clearCounts).path.faultMark = s.path.faultMark ∧ (s.clearCounts).path.ownWait = s.path.ownWait ∧
    (s.clearCounts).path.fwdWait = s.path.fwdWait ∧ (s.clearCounts).path.presented = s.path.presented ∧
    (s.clearCounts).path.lastOwn = s.path.lastOwn ∧ (s.clearCounts).path.nextId = s.path.nextId ∧
    (s.clearCounts).path.returned = s.path.returned ∧ (s.clearCounts).plan = s.plan ∧
    (s.clearCounts).notice = s.notice ∧ (s.clearCounts).mem = s.mem ∧ (s.clearCounts).pending = s.pending := by
  simp only [State.clearCounts]; (repeat' split) <;> simp

@[simp] theorem State.loseGrown_frame (s : State) (t : Nat) :
    (s.loseGrown t).src.F = s.src.F ∧ (s.loseGrown t).src.lag = s.src.lag ∧
    (s.loseGrown t).src.clockLost = s.src.clockLost ∧ (s.loseGrown t).src.views = s.src.views ∧
    (s.loseGrown t).src.sources = s.src.sources ∧ (s.loseGrown t).src.snapPending = s.src.snapPending ∧
    (s.loseGrown t).src.snapDeferred = s.src.snapDeferred ∧ (s.loseGrown t).src.levelImage = s.src.levelImage ∧
    (s.loseGrown t).ring.programs = s.ring.programs ∧ (s.loseGrown t).recorder.status = s.recorder.status ∧
    (s.loseGrown t).recorder.cap = s.recorder.cap ∧ (s.loseGrown t).recorder.producer = s.recorder.producer ∧
    (s.loseGrown t).recorder.consumer = s.recorder.consumer ∧
    (s.loseGrown t).recorder.seconds = s.recorder.seconds ∧
    (s.loseGrown t).recorder.frameInSecond = s.recorder.frameInSecond ∧
    (s.loseGrown t).recorder.fresh = s.recorder.fresh ∧ (s.loseGrown t).recorder.staged = s.recorder.staged ∧
    (s.loseGrown t).recorder.records.map PendingRecord.core = s.recorder.records.map PendingRecord.core ∧
    (s.loseGrown t).recorder.batches = s.recorder.batches ∧ (s.loseGrown t).path.base = s.path.base ∧
    (s.loseGrown t).path.decodeEn = s.path.decodeEn ∧
    (s.loseGrown t).path.resetAsserted = s.path.resetAsserted ∧ (s.loseGrown t).path.queues = s.path.queues ∧
    (s.loseGrown t).path.partialWrites = s.path.partialWrites ∧
    (s.loseGrown t).path.memoryFaults = s.path.memoryFaults ∧
    (s.loseGrown t).path.faultMark = s.path.faultMark ∧ (s.loseGrown t).path.fwdWait = s.path.fwdWait ∧
    (s.loseGrown t).path.presented = s.path.presented ∧ (s.loseGrown t).path.lastOwn = s.path.lastOwn ∧
    (s.loseGrown t).path.returned = s.path.returned ∧ (s.loseGrown t).plan = s.plan ∧
    (s.loseGrown t).notice.imagePending = s.notice.imagePending ∧
    (s.loseGrown t).notice.imageDeferred = s.notice.imageDeferred ∧
    (s.loseGrown t).notice.image = s.notice.image ∧ (s.loseGrown t).mem = s.mem ∧
    (s.loseGrown t).pending = s.pending := by
  simp [State.loseGrown]

@[simp] theorem State.loseEarly_frame (s : State) (l : List Nat) :
    (s.loseEarly l).src.F = s.src.F ∧ (s.loseEarly l).src.lag = s.src.lag ∧
    (s.loseEarly l).src.clockLost = s.src.clockLost ∧ (s.loseEarly l).src.views = s.src.views ∧
    (s.loseEarly l).src.sources = s.src.sources ∧ (s.loseEarly l).src.snapPending = s.src.snapPending ∧
    (s.loseEarly l).src.snapDeferred = s.src.snapDeferred ∧ (s.loseEarly l).src.levelImage = s.src.levelImage ∧
    (s.loseEarly l).ring.programs = s.ring.programs ∧ (s.loseEarly l).recorder.status = s.recorder.status ∧
    (s.loseEarly l).recorder.cap = s.recorder.cap ∧ (s.loseEarly l).recorder.producer = s.recorder.producer ∧
    (s.loseEarly l).recorder.consumer = s.recorder.consumer ∧
    (s.loseEarly l).recorder.seconds = s.recorder.seconds ∧
    (s.loseEarly l).recorder.frameInSecond = s.recorder.frameInSecond ∧
    (s.loseEarly l).recorder.fresh = s.recorder.fresh ∧ (s.loseEarly l).recorder.staged = s.recorder.staged ∧
    (s.loseEarly l).recorder.records.map PendingRecord.core = s.recorder.records.map PendingRecord.core ∧
    (s.loseEarly l).recorder.batches = s.recorder.batches ∧ (s.loseEarly l).path.base = s.path.base ∧
    (s.loseEarly l).path.decodeEn = s.path.decodeEn ∧
    (s.loseEarly l).path.resetAsserted = s.path.resetAsserted ∧ (s.loseEarly l).path.queues = s.path.queues ∧
    (s.loseEarly l).path.partialWrites = s.path.partialWrites ∧
    (s.loseEarly l).path.memoryFaults = s.path.memoryFaults ∧
    (s.loseEarly l).path.faultMark = s.path.faultMark ∧ (s.loseEarly l).path.fwdWait = s.path.fwdWait ∧
    (s.loseEarly l).path.presented = s.path.presented ∧ (s.loseEarly l).path.lastOwn = s.path.lastOwn ∧
    (s.loseEarly l).path.returned = s.path.returned ∧ (s.loseEarly l).plan = s.plan ∧
    (s.loseEarly l).notice.imagePending = s.notice.imagePending ∧
    (s.loseEarly l).notice.imageDeferred = s.notice.imageDeferred ∧
    (s.loseEarly l).notice.image = s.notice.image ∧ (s.loseEarly l).mem = s.mem ∧
    (s.loseEarly l).pending = s.pending := by
  induction l generalizing s with
  | nil => simp [State.loseEarly]
  | cons x rest ih => simp only [State.loseEarly, List.foldl_cons] at ih ⊢; simp [ih]

@[simp] theorem State.growTurrets_frame (s : State) (l : List Nat) :
    (s.growTurrets l).src.F = s.src.F ∧ (s.growTurrets l).src.lag = s.src.lag ∧
    (s.growTurrets l).src.clockLost = s.src.clockLost ∧ (s.growTurrets l).src.views = s.src.views ∧
    (s.growTurrets l).src.sources = s.src.sources ∧ (s.growTurrets l).src.snapPending = s.src.snapPending ∧
    (s.growTurrets l).src.snapDeferred = s.src.snapDeferred ∧
    (s.growTurrets l).src.levelImage = s.src.levelImage ∧ (s.growTurrets l).mix = s.mix ∧
    (s.growTurrets l).line = s.line ∧ (s.growTurrets l).ring = s.ring ∧ (s.growTurrets l).group = s.group ∧
    (s.growTurrets l).recorder = s.recorder ∧ (s.growTurrets l).path = s.path ∧
    (s.growTurrets l).plan = s.plan ∧ (s.growTurrets l).notice = s.notice ∧ (s.growTurrets l).mem = s.mem ∧
    (s.growTurrets l).pending = s.pending := by
  simp [State.growTurrets]

@[simp] theorem State.losses_frame (s : State) (o : CloseOrder) (m : LossMoment) :
    (s.losses o m).src.F = s.src.F ∧ (s.losses o m).src.lag = s.src.lag ∧
    (s.losses o m).src.clockLost = s.src.clockLost ∧ (s.losses o m).src.views = s.src.views ∧
    (s.losses o m).src.sources = s.src.sources ∧ (s.losses o m).src.snapPending = s.src.snapPending ∧
    (s.losses o m).src.snapDeferred = s.src.snapDeferred ∧ (s.losses o m).src.levelImage = s.src.levelImage ∧
    (s.losses o m).ring.programs = s.ring.programs ∧ (s.losses o m).recorder.status = s.recorder.status ∧
    (s.losses o m).recorder.cap = s.recorder.cap ∧ (s.losses o m).recorder.producer = s.recorder.producer ∧
    (s.losses o m).recorder.consumer = s.recorder.consumer ∧
    (s.losses o m).recorder.seconds = s.recorder.seconds ∧
    (s.losses o m).recorder.frameInSecond = s.recorder.frameInSecond ∧
    (s.losses o m).recorder.fresh = s.recorder.fresh ∧ (s.losses o m).recorder.staged = s.recorder.staged ∧
    (s.losses o m).recorder.records.map PendingRecord.core = s.recorder.records.map PendingRecord.core ∧
    (s.losses o m).recorder.batches = s.recorder.batches ∧ (s.losses o m).path.base = s.path.base ∧
    (s.losses o m).path.decodeEn = s.path.decodeEn ∧ (s.losses o m).path.resetAsserted = s.path.resetAsserted ∧
    (s.losses o m).path.queues = s.path.queues ∧ (s.losses o m).path.partialWrites = s.path.partialWrites ∧
    (s.losses o m).path.memoryFaults = s.path.memoryFaults ∧ (s.losses o m).path.faultMark = s.path.faultMark ∧
    (s.losses o m).path.fwdWait = s.path.fwdWait ∧ (s.losses o m).path.presented = s.path.presented ∧
    (s.losses o m).path.lastOwn = s.path.lastOwn ∧ (s.losses o m).path.returned = s.path.returned ∧
    (s.losses o m).plan = s.plan ∧ (s.losses o m).notice.imagePending = s.notice.imagePending ∧
    (s.losses o m).notice.imageDeferred = s.notice.imageDeferred ∧
    (s.losses o m).notice.image = s.notice.image ∧ (s.losses o m).mem = s.mem ∧
    (s.losses o m).pending = s.pending := by
  simp only [State.losses]; (repeat' split) <;> simp

@[simp] theorem State.lineWork_frame (s : State) (o : CloseOrder) (b : Bool) (l : List Nat) :
    (s.lineWork o b l).src = s.src ∧ (s.lineWork o b l).line.occupancy = s.line.occupancy ∧
    (s.lineWork o b l).ring.programs = s.ring.programs ∧ (s.lineWork o b l).group = s.group ∧
    (s.lineWork o b l).recorder.status = s.recorder.status ∧ (s.lineWork o b l).recorder.cap = s.recorder.cap ∧
    (s.lineWork o b l).recorder.producer = s.recorder.producer ∧
    (s.lineWork o b l).recorder.consumer = s.recorder.consumer ∧
    (s.lineWork o b l).recorder.seconds = s.recorder.seconds ∧
    (s.lineWork o b l).recorder.frameInSecond = s.recorder.frameInSecond ∧
    (s.lineWork o b l).recorder.fresh = s.recorder.fresh ∧
    (s.lineWork o b l).recorder.staged = s.recorder.staged ∧
    (s.lineWork o b l).recorder.records.map PendingRecord.core = s.recorder.records.map PendingRecord.core ∧
    (s.lineWork o b l).recorder.batches = s.recorder.batches ∧ (s.lineWork o b l).path.base = s.path.base ∧
    (s.lineWork o b l).path.decodeEn = s.path.decodeEn ∧
    (s.lineWork o b l).path.resetAsserted = s.path.resetAsserted ∧
    (s.lineWork o b l).path.queues = s.path.queues ∧
    (s.lineWork o b l).path.partialWrites = s.path.partialWrites ∧
    (s.lineWork o b l).path.memoryFaults = s.path.memoryFaults ∧
    (s.lineWork o b l).path.faultMark = s.path.faultMark ∧ (s.lineWork o b l).path.fwdWait = s.path.fwdWait ∧
    (s.lineWork o b l).path.presented = s.path.presented ∧ (s.lineWork o b l).path.lastOwn = s.path.lastOwn ∧
    (s.lineWork o b l).path.returned = s.path.returned ∧ (s.lineWork o b l).plan = s.plan ∧
    (s.lineWork o b l).notice.imagePending = s.notice.imagePending ∧
    (s.lineWork o b l).notice.imageDeferred = s.notice.imageDeferred ∧
    (s.lineWork o b l).notice.image = s.notice.image ∧ (s.lineWork o b l).mem = s.mem ∧
    (s.lineWork o b l).pending = s.pending := by
  simp only [State.lineWork]; (repeat' split) <;> simp

@[simp] theorem State.closeResults_frame (s : State) :
    (s.closeResults).src = s.src ∧ (s.closeResults).mix = s.mix ∧ (s.closeResults).line = s.line ∧
    (s.closeResults).ring = s.ring ∧ (s.closeResults).group = s.group ∧ (s.closeResults).recorder = s.recorder ∧
    (s.closeResults).path.base = s.path.base ∧ (s.closeResults).path.decodeEn = s.path.decodeEn ∧
    (s.closeResults).path.resetAsserted = s.path.resetAsserted ∧ (s.closeResults).path.queues = s.path.queues ∧
    (s.closeResults).path.partialWrites = s.path.partialWrites ∧
    (s.closeResults).path.memoryFaults = s.path.memoryFaults ∧
    (s.closeResults).path.faultMark = s.path.faultMark ∧ (s.closeResults).path.fwdWait = s.path.fwdWait ∧
    (s.closeResults).path.presented = s.path.presented ∧ (s.closeResults).path.lastOwn = s.path.lastOwn ∧
    (s.closeResults).path.returned = s.path.returned ∧ (s.closeResults).plan.staging = s.plan.staging ∧
    (s.closeResults).plan.floor = s.plan.floor ∧ (s.closeResults).notice.imagePending = s.notice.imagePending ∧
    (s.closeResults).notice.imageDeferred = s.notice.imageDeferred ∧
    (s.closeResults).notice.image = s.notice.image ∧ (s.closeResults).mem = s.mem ∧
    (s.closeResults).pending = s.pending := by
  simp only [State.closeResults]; (repeat' split) <;> simp

@[simp] theorem State.closeIntake_frame (s : State) (o : CloseOrder) :
    (s.closeIntake o).src.F = s.src.F ∧ (s.closeIntake o).src.lag = s.src.lag ∧
    (s.closeIntake o).src.clockLost = s.src.clockLost ∧ (s.closeIntake o).src.snapPending = s.src.snapPending ∧
    (s.closeIntake o).src.snapDeferred = s.src.snapDeferred ∧
    (s.closeIntake o).src.levelImage = s.src.levelImage ∧
    (s.closeIntake o).recorder.status = s.recorder.status ∧ (s.closeIntake o).recorder.cap = s.recorder.cap ∧
    (s.closeIntake o).recorder.producer = s.recorder.producer ∧
    (s.closeIntake o).recorder.consumer = s.recorder.consumer ∧
    (s.closeIntake o).recorder.seconds = s.recorder.seconds ∧
    (s.closeIntake o).recorder.frameInSecond = s.recorder.frameInSecond ∧
    (s.closeIntake o).recorder.staged = s.recorder.staged ∧
    (s.closeIntake o).recorder.records.map PendingRecord.core = s.recorder.records.map PendingRecord.core ∧
    (s.closeIntake o).recorder.batches = s.recorder.batches ∧ (s.closeIntake o).path.base = s.path.base ∧
    (s.closeIntake o).path.decodeEn = s.path.decodeEn ∧
    (s.closeIntake o).path.resetAsserted = s.path.resetAsserted ∧
    (s.closeIntake o).path.queues = s.path.queues ∧ (s.closeIntake o).path.faultMark = s.path.faultMark ∧
    (s.closeIntake o).path.fwdWait = s.path.fwdWait ∧ (s.closeIntake o).path.presented = s.path.presented ∧
    (s.closeIntake o).path.lastOwn = s.path.lastOwn ∧ (s.closeIntake o).path.returned = s.path.returned ∧
    (s.closeIntake o).plan.clears = s.plan.clears ∧ (s.closeIntake o).plan.restart = s.plan.restart ∧
    (s.closeIntake o).notice.imagePending = s.notice.imagePending ∧
    (s.closeIntake o).notice.imageDeferred = s.notice.imageDeferred ∧
    (s.closeIntake o).notice.image = s.notice.image ∧ (s.closeIntake o).mem = s.mem ∧
    (s.closeIntake o).pending = s.pending := by
  simp [State.closeIntake]

@[simp] theorem State.closeControl_frame (s : State) (o : CloseOrder) (l : List Nat) :
    (s.closeControl o l).src.F = s.src.F ∧ (s.closeControl o l).src.lag = s.src.lag ∧
    (s.closeControl o l).src.clockLost = s.src.clockLost ∧ (s.closeControl o l).src.views = s.src.views ∧
    (s.closeControl o l).src.sources = s.src.sources ∧
    (s.closeControl o l).src.snapPending = s.src.snapPending ∧
    (s.closeControl o l).src.snapDeferred = s.src.snapDeferred ∧
    (s.closeControl o l).src.levelImage = s.src.levelImage ∧
    (s.closeControl o l).ring.programs = s.ring.programs ∧
    (s.closeControl o l).recorder.status = s.recorder.status ∧
    (s.closeControl o l).recorder.cap = s.recorder.cap ∧
    (s.closeControl o l).recorder.producer = s.recorder.producer ∧
    (s.closeControl o l).recorder.consumer = s.recorder.consumer ∧
    (s.closeControl o l).recorder.records.map PendingRecord.core = s.recorder.records.map PendingRecord.core ∧
    (s.closeControl o l).recorder.batches = s.recorder.batches ∧ (s.closeControl o l).path.base = s.path.base ∧
    (s.closeControl o l).path.decodeEn = s.path.decodeEn ∧
    (s.closeControl o l).path.resetAsserted = s.path.resetAsserted ∧
    (s.closeControl o l).path.queues = s.path.queues ∧
    (s.closeControl o l).path.partialWrites = s.path.partialWrites ∧
    (s.closeControl o l).path.memoryFaults = s.path.memoryFaults ∧
    (s.closeControl o l).path.faultMark = s.path.faultMark ∧
    (s.closeControl o l).path.fwdWait = s.path.fwdWait ∧
    (s.closeControl o l).path.presented = s.path.presented ∧
    (s.closeControl o l).path.lastOwn = s.path.lastOwn ∧ (s.closeControl o l).path.returned = s.path.returned ∧
    (s.closeControl o l).plan = s.plan ∧ (s.closeControl o l).notice.imagePending = s.notice.imagePending ∧
    (s.closeControl o l).notice.imageDeferred = s.notice.imageDeferred ∧
    (s.closeControl o l).notice.image = s.notice.image ∧ (s.closeControl o l).mem = s.mem ∧
    (s.closeControl o l).pending = s.pending := by
  simp [State.closeControl]

@[simp] theorem State.closeRecords_frame (s : State) (o : CloseOrder) (l : List Nat) :
    (s.closeRecords o l).src.F = s.src.F ∧ (s.closeRecords o l).src.lag = s.src.lag ∧
    (s.closeRecords o l).src.clockLost = s.src.clockLost ∧ (s.closeRecords o l).src.views = s.src.views ∧
    (s.closeRecords o l).src.sources = s.src.sources ∧
    (s.closeRecords o l).src.snapPending = s.src.snapPending ∧
    (s.closeRecords o l).src.snapDeferred = s.src.snapDeferred ∧
    (s.closeRecords o l).src.levelImage = s.src.levelImage ∧
    (s.closeRecords o l).ring.programs = s.ring.programs ∧ (s.closeRecords o l).recorder.cap = s.recorder.cap ∧
    (s.closeRecords o l).recorder.producer = s.recorder.producer ∧
    (s.closeRecords o l).recorder.consumer = s.recorder.consumer ∧
    (s.closeRecords o l).recorder.seconds = s.recorder.seconds ∧
    (s.closeRecords o l).recorder.frameInSecond = s.recorder.frameInSecond ∧
    (s.closeRecords o l).recorder.fresh = s.recorder.fresh ∧
    (s.closeRecords o l).recorder.staged = s.recorder.staged ∧ (s.closeRecords o l).path.base = s.path.base ∧
    (s.closeRecords o l).path.decodeEn = s.path.decodeEn ∧
    (s.closeRecords o l).path.resetAsserted = s.path.resetAsserted ∧
    (s.closeRecords o l).path.queues = s.path.queues ∧
    (s.closeRecords o l).path.partialWrites = s.path.partialWrites ∧
    (s.closeRecords o l).path.memoryFaults = s.path.memoryFaults ∧
    (s.closeRecords o l).path.faultMark = s.path.faultMark ∧
    (s.closeRecords o l).path.fwdWait = s.path.fwdWait ∧
    (s.closeRecords o l).path.presented = s.path.presented ∧
    (s.closeRecords o l).path.lastOwn = s.path.lastOwn ∧ (s.closeRecords o l).path.returned = s.path.returned ∧
    (s.closeRecords o l).plan = s.plan ∧ (s.closeRecords o l).notice.imagePending = s.notice.imagePending ∧
    (s.closeRecords o l).notice.imageDeferred = s.notice.imageDeferred ∧
    (s.closeRecords o l).notice.image = s.notice.image ∧ (s.closeRecords o l).mem = s.mem ∧
    (s.closeRecords o l).pending = s.pending := by
  simp [State.closeRecords]

@[simp] theorem State.close_frame (s : State) (o : CloseOrder) :
    (s.close o).src.snapDeferred = s.src.snapDeferred ∧ (s.close o).path.base = s.path.base ∧
    (s.close o).path.decodeEn = s.path.decodeEn ∧ (s.close o).path.resetAsserted = s.path.resetAsserted ∧
    (s.close o).path.queues = s.path.queues ∧ (s.close o).path.fwdWait = s.path.fwdWait ∧
    (s.close o).path.presented = s.path.presented ∧ (s.close o).path.lastOwn = s.path.lastOwn ∧
    (s.close o).path.returned = s.path.returned ∧ (s.close o).notice.imageDeferred = s.notice.imageDeferred ∧
    (s.close o).mem = s.mem ∧ (s.close o).pending = s.pending := by
  have e : s.close o = ((((s.beginClose.closeEdits.closeIntake o).closeControl o
      (runningPlayers s.beginClose.closeEdits)).closeRecords o
        (ringingLines s.beginClose.closeEdits)).closeResults).captureLevels.captureState := rfl
  generalize runningPlayers s.beginClose.closeEdits = a at e
  generalize ringingLines s.beginClose.closeEdits = b at e
  rw [e]
  simp

end Sys2Proof.Machine
end

