-- ==== Sys2Proof/Laws/Memory.lean ====
section
/-!
SUPPORT. The laws of bursts as bytes and of the frame memory: what is read after a write, what a write leaves, and that the
canonical form is kept.
-/

namespace Sys2Proof.Machine

/-! ### Bytes -/

/-- The number that bytes hold is below 256 to their number. -/
theorem bytesValue_lt (l : List Byte) : bytesValue l < 256 ^ l.length := by
  induction l with
  | nil => simp [bytesValue]
  | cons b rest ih =>
    have := b.isLt
    simp only [bytesValue, List.length_cons, Nat.pow_succ]
    omega

/-- Byte `i` of the number that bytes hold is byte `i` of the list, and 0 beyond it. -/
theorem bytesValue_div (l : List Byte) (i : Nat) : bytesValue l / 256 ^ i % 256 = (l[i]?.getD 0).toNat := by
  induction l generalizing i with
  | nil => simp [bytesValue]
  | cons b rest ih =>
    have hb := b.isLt
    cases i with
    | zero => simp only [bytesValue, Nat.pow_zero, Nat.div_one, List.getElem?_cons_zero, Option.getD_some]; omega
    | succ i =>
      simp only [bytesValue, Nat.pow_succ', ← Nat.div_div_eq_div_mul, List.getElem?_cons_succ]
      rw [show (b.toNat + 256 * bytesValue rest) / 256 = bytesValue rest by omega]
      exact ih i

/-- Byte `i` of a burst packed from bytes. -/
theorem byteOf_packBytes (l : List Byte) {i : Nat} (h : i < 32) : byteOf (packBytes l) i = l[i]?.getD 0 := by
  apply BitVec.eq_of_toNat_eq
  simp only [byteOf, field, packBytes, BitVec.toNat_ofNat, Nat.mul_one]
  rw [Nat.mod_mod, show (2 : Nat) ^ (8 * i) = 256 ^ i by rw [Nat.pow_mul]]
  rw [← bytesValue_div, show (2 : Nat) ^ 8 = 256 by norm_num]
  rw [show (2 : Nat) ^ 256 = 256 ^ i * 256 ^ (32 - i) by rw [← Nat.pow_add, Nat.add_sub_cancel' (by omega)]; norm_num]
  rw [Nat.mod_mul_right_div_self, Nat.mod_mod_of_dvd]
  exact dvd_pow_self 256 (by omega)

/-- A burst is the one packed from its 32 bytes. -/
theorem packBytes_byteOf (d : Burst) : packBytes ((List.range 32).map (byteOf d)) = d := by
  have key : ∀ n v : Nat, bytesValue ((List.range n).map fun i => BitVec.ofNat 8 (v / 256 ^ i)) = v % 256 ^ n := by
    intro n
    induction n with
    | zero => intro v; simp [bytesValue, Nat.mod_one]
    | succ n ih =>
      intro v
      have e := ih (v / 256)
      rw [List.range_succ_eq_map]
      simp only [List.map_cons, List.map_map, bytesValue, Nat.pow_zero, Nat.div_one, BitVec.toNat_ofNat]
      have : (fun i => BitVec.ofNat 8 (v / 256 ^ i)) ∘ Nat.succ = fun i => BitVec.ofNat 8 (v / 256 / 256 ^ i) := by
        funext i; simp [Nat.pow_succ', Nat.div_div_eq_div_mul]
      rw [this, e, show (2 : Nat) ^ 8 = 256 by norm_num, Nat.pow_succ', Nat.mod_mul]
  apply BitVec.eq_of_toNat_eq
  have h := key 32 d.toNat
  have e : (List.range 32).map (byteOf d) = (List.range 32).map fun i => BitVec.ofNat 8 (d.toNat / 256 ^ i) := by
    apply List.map_congr_left
    intro i _
    apply BitVec.eq_of_toNat_eq
    simp [byteOf, field, show (2 : Nat) ^ (8 * i) = 256 ^ i by rw [Nat.pow_mul]]
  rw [packBytes, e, h, BitVec.toNat_ofNat]
  have := d.isLt
  rw [Nat.mod_mod_of_dvd _ (by norm_num), Nat.mod_eq_of_lt this]

/-- A burst is determined by its 32 bytes. -/
theorem burst_ext {d e : Burst} (h : ∀ i < 32, byteOf d i = byteOf e i) : d = e := by
  rw [← packBytes_byteOf d, ← packBytes_byteOf e]
  congr 1
  exact List.map_congr_left fun i hi => h i (List.mem_range.mp hi)

/-! ### Reading memory -/

/-- An entry listed in a part of memory that keeps every entry of an address. -/
theorem lookup_filter {α : Type} (p : Nat → Bool) (l : List (Nat × α)) (b : Nat) :
    lookup (l.filter fun c => p c.1) b = if p b then lookup l b else none := by
  induction l with
  | nil => simp [lookup]
  | cons c rest ih =>
    obtain ⟨k, x⟩ := c
    by_cases hp : p k
    · simp only [List.filter_cons, hp, if_true, lookup, ih]
      split
      · rename_i h; subst h; simp [hp]
      · rfl
    · have e : (List.filter (fun c => p c.1) ((k, x) :: rest)) = rest.filter fun c => p c.1 := by
        simp [hp]
      rw [e, ih, lookup]
      by_cases hb : b = k
      · subst hb; simp [hp]
      · rw [if_neg hb]

theorem lookup_append {α : Type} (l m : List (Nat × α)) (b : Nat) :
    lookup (l ++ m) b = (lookup l b).or (lookup m b) := by
  induction l with
  | nil => simp [lookup]
  | cons c rest ih =>
    obtain ⟨k, x⟩ := c
    simp only [List.cons_append, lookup, ih]
    split <;> simp

/-- The cells that a burst lists. -/
theorem lookup_burstCells (a b : Nat) (d : Burst) :
    lookup (burstCells a d) b =
      if a ≤ b ∧ b < a + 32 ∧ byteOf d (b - a) ≠ Config.unwritten then some (byteOf d (b - a)) else none := by
  have key : ∀ l : List Nat,
      lookup (l.filterMap fun i => if byteOf d i = Config.unwritten then none else some (a + i, byteOf d i)) b =
        if a ≤ b ∧ b - a ∈ l ∧ byteOf d (b - a) ≠ Config.unwritten then some (byteOf d (b - a)) else none := by
    intro l
    induction l with
    | nil => simp [lookup]
    | cons i rest ih =>
      by_cases hu : byteOf d i = Config.unwritten
      · simp only [List.filterMap_cons, hu, if_true, ih, List.mem_cons]
        by_cases hi : b - a = i
        · subst hi; simp [hu]
        · simp [hi]
      · simp only [List.filterMap_cons, hu, if_false, lookup, ih, List.mem_cons]
        by_cases hb : b = a + i
        · subst hb; simp [hu]
        · rw [if_neg hb]
          by_cases ha : a ≤ b
          · have : b - a ≠ i := by omega
            simp [this]
          · simp [ha]
  rw [burstCells, key]
  simp only [List.mem_range]
  by_cases ha : a ≤ b
  · simp [ha, show b - a < 32 ↔ b < a + 32 by omega]
  · simp [ha]

/-- A byte read after a burst is stored: the burst's within it, and as before elsewhere. -/
theorem readByte_storeBurst (m : List Host.Cell) (a b : Nat) (d : Burst) :
    readByte (storeBurst m a d) b = if a ≤ b ∧ b < a + 32 then byteOf d (b - a) else readByte m b := by
  have h1 := lookup_filter (fun k => decide (k < a)) m b
  have h2 := lookup_filter (fun k => decide (a + 32 ≤ k)) m b
  simp only [readByte, storeBurst, lookup_append, lookup_burstCells]
  simp only [decide_eq_true_eq] at h1 h2
  rw [h1, h2]
  by_cases hl : b < a
  · have h3 : ¬ a ≤ b := by omega
    have h4 : ¬ a + 32 ≤ b := by omega
    simp [hl, h3, h4]
  · by_cases hr : a + 32 ≤ b
    · have h3 : ¬ b < a + 32 := by omega
      simp [hl, hr, h3]
    · have h3 : a ≤ b := by omega
      have h4 : b < a + 32 := by omega
      by_cases hu : byteOf d (b - a) = Config.unwritten <;> simp [hl, hr, h3, h4, hu]

/-- A burst read where it was stored. -/
theorem readBurst_storeBurst (m : List Host.Cell) (a : Nat) (d : Burst) : readBurst (storeBurst m a d) a = d := by
  have : (List.range 32).map (fun i => readByte (storeBurst m a d) (a + i)) = (List.range 32).map (byteOf d) := by
    apply List.map_congr_left
    intro i hi
    have := List.mem_range.mp hi
    simp [readByte_storeBurst, this]
  rw [readBurst, this, packBytes_byteOf]

/-- Byte i of the burst read at an address. -/
theorem byteOf_readBurst (m : List Host.Cell) (a : Nat) {i : Nat} (h : i < 32) :
    byteOf (readBurst m a) i = readByte m (a + i) := by
  rw [readBurst, byteOf_packBytes _ h]; simp [h]

/-- Byte i of merged bytes: the new one where enabled. -/
theorem byteOf_mergeBytes (old new : Burst) (en : Enables) {i : Nat} (h : i < 32) :
    byteOf (mergeBytes old new en) i = if en.getLsbD i then byteOf new i else byteOf old i := by
  rw [mergeBytes, byteOf_packBytes _ h]; simp [h]

/-- A byte read after a burst write: the new one where enabled, and as before elsewhere. -/
theorem readByte_writeBurst (m : List Host.Cell) (a b : Nat) (d : Burst) (en : Enables) :
    readByte (writeBurst m a d en) b =
      if a ≤ b ∧ b < a + 32 ∧ en.getLsbD (b - a) then byteOf d (b - a) else readByte m b := by
  rw [writeBurst, readByte_storeBurst]
  by_cases h : a ≤ b ∧ b < a + 32
  · have hi : b - a < 32 := by omega
    rw [if_pos h, byteOf_mergeBytes _ _ _ hi, byteOf_readBurst _ _ hi, show a + (b - a) = b by omega]
    by_cases he : en.getLsbD (b - a) <;> simp [h, he]
  · rw [if_neg h, if_neg]
    exact fun hc => h ⟨hc.1, hc.2.1⟩

/-- A full write replaces the whole burst. -/
theorem writeBurst_full (m : List Host.Cell) (a : Nat) (d : Burst) :
    writeBurst m a d Enables.full = storeBurst m a d := by
  have : mergeBytes (readBurst m a) d Enables.full = d := by
    apply burst_ext
    intro i hi
    rw [byteOf_mergeBytes _ _ _ hi]
    rw [if_pos]
    rw [Enables.full, BitVec.getLsbD_allOnes]
    exact decide_eq_true hi
  rw [writeBurst, this]

/-! ### The canonical form -/

/-- The cells of a burst rise strictly from its address on. -/
theorem burstCells_pairwise (a : Nat) (d : Burst) : (burstCells a d).Pairwise fun c e => c.1 < e.1 := by
  rw [burstCells, List.pairwise_filterMap]
  apply List.Pairwise.imp _ (List.pairwise_lt_range (n := 32))
  intro i j hij x hx y hy
  split at hx <;> simp at hx
  split at hy <;> simp at hy
  subst hx hy
  simpa using hij

/-- A cell of a burst lies within it and does not read as an unlisted byte. -/
theorem mem_burstCells {a : Nat} {d : Burst} {c : Host.Cell} (h : c ∈ burstCells a d) :
    a ≤ c.1 ∧ c.1 < a + 32 ∧ c.2 ≠ Config.unwritten := by
  rw [burstCells, List.mem_filterMap] at h
  obtain ⟨i, hi, he⟩ := h
  have := List.mem_range.mp hi
  split at he <;> simp at he
  subst he
  exact ⟨Nat.le_add_right .., by simpa using this, by assumption⟩

/-- Storing a burst keeps the canonical form. -/
theorem storeBurst_canonical {m : List Host.Cell} (h : MemoryCanonical m) (a : Nat) (d : Burst) :
    MemoryCanonical (storeBurst m a d) := by
  refine ⟨?_, ?_⟩
  · rw [storeBurst, List.pairwise_append, List.pairwise_append]
    refine ⟨⟨h.1.filter _, burstCells_pairwise a d, ?_⟩, h.1.filter _, ?_⟩
    · intro x hx y hy
      have := mem_burstCells hy
      simp at hx; omega
    · intro x hx y hy
      simp only [List.mem_append, List.mem_filter, decide_eq_true_eq] at hx hy
      rcases hx with hx | hx
      · omega
      · have := mem_burstCells hx; omega
  · intro c hc
    simp only [storeBurst, List.mem_append, List.mem_filter] at hc
    rcases hc with (hc | hc) | hc
    · exact h.2 c hc.1
    · exact (mem_burstCells hc).2.2
    · exact h.2 c hc.1

/-- A burst write keeps the canonical form. -/
theorem writeBurst_canonical {m : List Host.Cell} (h : MemoryCanonical m) (a : Nat) (d : Burst) (en : Enables) :
    MemoryCanonical (writeBurst m a d en) := storeBurst_canonical h a _

end Sys2Proof.Machine
end

