-- ==== Sys2Proof/Laws/Taking.lean ====
section
/-!
SUPPORT. What taking a master's full write and its OK answer come to, where nothing in flight disturbs it: the owning block is
handed the contents in the state that `Taken` describes.
-/

namespace Sys2Proof.Machine

/-- Memory after an answer. -/
@[simp] theorem State.settle_mem (s : State) (f : Flight) (ok : Bool) : (s.settle f ok).mem = memoryAfter s.mem f ok := by
  simp only [State.settle]; split <;> simp

/-- An answer keeps memory's canonical form. -/
theorem memoryAfter_canonical {m : List Host.Cell} (h : MemoryCanonical m) (f : Flight) (ok : Bool) :
    MemoryCanonical (memoryAfter m f ok) := by
  unfold memoryAfter; split
  · exact h
  · exact writeBurst_canonical h _ _ _
  · exact h
  · exact writeBurst_canonical h _ _ _

/-- An answer leaves every byte outside its burst, and every byte that a write does not enable. -/
theorem readByte_memoryAfter (m : List Host.Cell) (f : Flight) (ok : Bool) (b : Nat)
    (h : ¬ (f.addr ≤ b ∧ b < f.addr + 32)) : readByte (memoryAfter m f ok) b = readByte m b := by
  unfold memoryAfter; split
  · rfl
  · rw [readByte_writeBurst, if_neg]; exact fun hc => h ⟨hc.1, hc.2.1⟩
  · rfl
  · rw [readByte_writeBurst, if_neg]; exact fun hc => h ⟨hc.1, hc.2.1⟩

/-- Answers in order keep memory's canonical form. -/
theorem State.settleAll_canonical {s : State} (h : MemoryCanonical s.mem) (l : List (Flight × Bool)) :
    MemoryCanonical (s.settleAll l).mem := by
  induction l generalizing s with
  | nil => exact h
  | cons x rest ih =>
    obtain ⟨f, ok⟩ := x
    exact ih (by rw [State.settle_mem]; exact memoryAfter_canonical h f ok)

/-- Carrying a waiting burst keeps the bursts in flight, and leaves one fewer waiting. -/
theorem PathSwitch.presentOne_step (p : PathSwitch) :
    p.presentOne.unanswered.Perm p.unanswered ∧ p.presentOne.ownWait <:+ p.ownWait ∧
      (p.ownWait ++ p.fwdWait ≠ [] →
        p.presentOne.ownWait.length + p.presentOne.fwdWait.length + 1 = p.ownWait.length + p.fwdWait.length) := by
  unfold PathSwitch.presentOne PathSwitch.unanswered
  split
  · exact ⟨.refl _, List.suffix_refl _, fun h => absurd (by simp_all) h⟩
  · rename_i o os h1 h2
    simp [h1, h2]
  · rename_i f fs h1 h2
    simp [h1, h2]
  · rename_i o os f fs h1 h2
    split
    · simp only [h1, h2]
      refine ⟨?_, List.suffix_refl _, fun _ => by simp only [List.length_cons]; omega⟩
      simp only [List.append_assoc, List.cons_append]
      exact List.Perm.append_left _ (by
        simpa using (List.perm_middle (a := f) (l₁ := o :: os) (l₂ := fs)).symm)
    · simp only [h1, h2]
      refine ⟨by simp, List.suffix_cons _ _, fun _ => by simp only [List.length_cons]; omega⟩

/-- Carrying waiting bursts until a burst has been carried keeps the bursts in flight, and leaves none of its number waiting. -/
theorem PathSwitch.presentUntil_spec (n id : Nat) (p : PathSwitch) (hn : p.ownWait.length + p.fwdWait.length ≤ n) :
    (PathSwitch.presentUntil n id p).unanswered.Perm p.unanswered ∧
      (PathSwitch.presentUntil n id p).ownWait <:+ p.ownWait ∧
      ∀ g ∈ (PathSwitch.presentUntil n id p).ownWait ++ (PathSwitch.presentUntil n id p).fwdWait, g.id ≠ id := by
  induction n generalizing p with
  | zero =>
    have h1 : p.ownWait = [] := List.eq_nil_of_length_eq_zero (by omega)
    have h2 : p.fwdWait = [] := List.eq_nil_of_length_eq_zero (by omega)
    simp [PathSwitch.presentUntil, h1, h2]
  | succ n ih =>
    simp only [PathSwitch.presentUntil]
    split
    · rename_i h
      obtain ⟨a, b, c⟩ := p.presentOne_step
      have hne : p.ownWait ++ p.fwdWait ≠ [] := by
        intro h0; rw [h0] at h; simp at h
      obtain ⟨d, e, f⟩ := ih p.presentOne (by have := c hne; omega)
      exact ⟨d.trans a, e.trans b, f⟩
    · rename_i h
      refine ⟨.refl _, List.suffix_refl _, fun g hg hid => h ?_⟩
      rw [List.any_eq_true]
      exact ⟨g, hg, by simpa using hid⟩

/-- A list that a filter cuts to one element has it between elements that the filter takes away. -/
theorem filter_singleton_split {α : Type} {q : α → Bool} {l : List α} {x : α} (h : l.filter q = [x]) :
    ∃ pre post, l = pre ++ x :: post ∧ ∀ y ∈ pre, q y = false := by
  induction l with
  | nil => simp at h
  | cons a l ih =>
    by_cases ha : q a
    · rw [List.filter_cons_of_pos ha] at h
      injection h with h1 h2
      exact ⟨[], l, by simp [h1], by simp⟩
    · rw [List.filter_cons_of_neg ha] at h
      obtain ⟨pre, post, h1, h2⟩ := ih h
      refine ⟨a :: pre, post, by simp [h1], ?_⟩
      intro y hy
      rcases List.mem_cons.mp hy with rfl | hy
      · simpa using ha
      · exact h2 y hy

/-- An answer to a burst of no image completes none. -/
theorem State.completeImage_other (s : State) {o : Owner} (h1 : o ≠ .levelImage) (h2 : o ≠ .stateImage) : s.completeImage o = s := by
  unfold State.completeImage; split
  · split <;> simp_all
  · rfl

/-- A burst that nothing else in flight has the number or address of is answered alone (R168). -/
theorem State.answerFlight_alone {s : State} {f : Flight} (h : s.path.Alone f) (ok : Bool) :
    ∃ x, Answered s f ok x ∧
      s.answerFlight f.id ok =
        (if f.owner.isOwn && !ok then (x.answerOwner f ok (readBurst s.mem f.addr)).countFault f.owner
         else x.answerOwner f ok (readBurst s.mem f.addr)).completeImage f.owner := by
  let p := PathSwitch.presentUntil (s.path.ownWait.length + s.path.fwdWait.length) f.id s.path
  have hp : PathSwitch.presentUntil (s.path.ownWait.length + s.path.fwdWait.length) f.id s.path = p := rfl
  have hfr := PathSwitch.presentUntil_frame (s.path.ownWait.length + s.path.fwdWait.length) f.id s.path
  obtain ⟨h1, h2, h3⟩ := PathSwitch.presentUntil_spec _ f.id s.path (Nat.le_refl _)
  rw [hp] at hfr h1 h2 h3
  obtain ⟨g1, g2, g3, g4, g5, g6, g7, g8, g9⟩ := hfr
  have hq : p.unanswered.filter (fun g => g.id == f.id || g.addr == f.addr) = [f] :=
    List.perm_singleton.mp ((h1.filter _).trans (List.Perm.of_eq h))
  have hw : (p.ownWait ++ p.fwdWait).filter (fun g => g.id == f.id || g.addr == f.addr) = [] := by
    rw [List.filter_eq_nil_iff]
    intro g hg hc
    have : g ∈ p.unanswered.filter (fun g => g.id == f.id || g.addr == f.addr) :=
      List.mem_filter.mpr ⟨by simp only [PathSwitch.unanswered, List.append_assoc, List.mem_append] at hg ⊢; tauto, hc⟩
    rw [hq, List.mem_singleton] at this
    exact h3 g hg (by rw [this])
  have hpr : p.presented.filter (fun g => g.id == f.id || g.addr == f.addr) = [f] := by
    have := hq
    rw [PathSwitch.unanswered, List.append_assoc, List.filter_append, hw, List.append_nil] at this
    exact this
  obtain ⟨pre, post, e1, e2⟩ := filter_singleton_split hpr
  have hno : ∀ g ∈ pre, g.id ≠ f.id ∧ g.addr ≠ f.addr := by
    intro g hg
    have := e2 g hg
    simpa using this
  have ha : p.answeredWith f.id = [f] := by
    have hf : p.presented.find? (fun g => g.id == f.id) = some f := by
      rw [e1, List.find?_append, List.find?_eq_none.mpr]
      · simp
      · intro g hg; simpa using (hno g hg).1
    have ht : (p.presented.takeWhile fun g => g.id != f.id) = pre := by
      rw [e1, List.takeWhile_append_of_pos]
      · simp
      · intro g hg; simpa using (hno g hg).1
    have hz : pre.filter (fun g => g.addr == f.addr) = [] := by
      rw [List.filter_eq_nil_iff]
      intro g hg; simpa using (hno g hg).2
    simp only [PathSwitch.answeredWith, hf, ht, hz, List.nil_append]
  refine ⟨{ s with mem := memoryAfter s.mem f ok, path := p.without f.id }, ?_, ?_⟩
  · constructor <;> try rfl
    · exact g1
    · exact g2
    · exact g3
    · exact g5
    · exact g6
    · exact g7
    · exact g9
    · exact g8
    · exact g4
    · exact h2
    · refine List.Perm.trans (List.Perm.of_eq ?_) (h1.filter _)
      have hk : (p.ownWait ++ p.fwdWait).filter (fun g => g.id != f.id) = p.ownWait ++ p.fwdWait := by
        rw [List.filter_eq_self]
        intro g hg; simpa using h3 g hg
      simp only [PathSwitch.unanswered, PathSwitch.without, List.append_assoc, List.filter_append p.presented, hk]
  · simp only [State.answerFlight]
    change ({ s with path := p } : State).settleAll ((p.answeredWith f.id).map _) = _
    rw [ha]
    simp [State.settleAll, State.settle]

/-- A burst that is forwarded, to an address that nothing in flight has, is answered alone. -/
theorem State.forward_alone {s : State} {m addr : Nat} (op : BurstOp) (h : Hand) (hw : s.path.Clear addr) :
    (s.forward m addr op h).path.Alone
      { id := s.path.nextId, addr := addr, op := op, owner := .master m s.path.nextId h } := by
  have hu : (s.forward m addr op h).path.unanswered = s.path.unanswered ++
      [{ id := s.path.nextId, addr := addr, op := op, owner := .master m s.path.nextId h }] := by
    simp [State.forward, PathSwitch.unanswered]
  simp only [PathSwitch.Alone, hu, List.filter_append]
  rw [List.filter_eq_nil_iff.mpr]
  · simp
  · intro g hg
    have := hw g hg
    simp only [Bool.or_eq_true, beq_iff_eq, not_or]
    exact ⟨by omega, this.2⟩

/-- A decoded burst of a master whose queue has room is treated by its area (R163, R166). -/
theorem State.takeBurst_decoded {s : State} {m addr : Nat} (hq : s.queueFull m = false) (hd : s.path.decodes addr = true)
    (op : BurstOp) : s.takeBurst m addr op = s.takeInside m addr (addr % 2 ^ 24) op := by
  rw [State.takeBurst, hq, hd]; rfl

/-- A burst that is not decoded is forwarded (R161, R162). -/
theorem State.takeBurst_outside {s : State} {m addr : Nat} (hq : s.queueFull m = false) (hd : s.path.decodes addr = false)
    (op : BurstOp) : s.takeBurst m addr op = s.forward m addr op .nobody := by
  rw [State.takeBurst, hq, hd]; rfl

/-- A full write that is forwarded, and answered OK, hands its contents to a block in the state that `Taken` describes. -/
theorem forward_taken {s : State} {m offset : Nat} (h : Hand) (d : Burst) (hw : s.path.Clear (s.path.address offset)) :
    ∃ x, Taken s m offset d x ∧
      (s.forward m (s.path.address offset) (.write d Enables.full) h).answerFlight s.path.nextId true = x.hand h d := by
  obtain ⟨x, hx, he⟩ := State.answerFlight_alone
    (State.forward_alone (m := m) (.write d Enables.full) h hw) true
  refine ⟨x.answerEntry m s.path.nextId (some .ok), ?_, by
    simpa [State.answerOwner, State.answerMaster, Owner.isOwn, State.completeImage_other] using he⟩
  have hq : x.path.queues = (s.forward m (s.path.address offset) (.write d Enables.full) h).path.queues := hx.queues
  constructor
  · simp [hx.src]
  · simp [hx.mix]
  · simp [hx.line]
  · simp [hx.ring]
  · simp [hx.group]
  · simp [hx.recorder]
  · simp [hx.plan]
  · simp [hx.notice]
  · simp [hx.pending]
  · simp [hx.mem, memoryAfter]
  · simp [hx.base]
  · simp [hx.decodeEn]
  · simp [hx.resetAsserted]
  · simp [hx.partialWrites]
  · simp [hx.memoryFaults]
  · simp [hx.faultMark]
  · have := hx.ownWait; simpa using this
  · intro k hk
    have e2 : x.queue k = s.queue k := by
      simp only [State.queue, hq]
      simp [State.forward, State.appendEntry, State.returnKnown, State.setQueue, State.tick, State.queue,
        Table.get_set_ne _ _ _ hk]
    rw [← e2]
    simp only [State.answerEntry, State.returnKnown, State.queue, State.setQueue, Table.get_set_ne _ _ _ hk]
  · intro h0
    simp only [State.queue] at h0
    have e2 : x.path.queues.get [] m = [{ id := s.path.nextId, awaiting := 1, response := .ok }] := by
      rw [hq]
      simp [State.forward, State.appendEntry, State.returnKnown, State.setQueue, State.tick, State.queue, h0]
    have e3 : x.path.returned = s.path.returned := by
      rw [hx.returned]
      simp [State.forward, State.appendEntry, State.returnKnown, State.setQueue, State.tick, State.queue, h0]
    simp [State.answerEntry, State.returnKnown, State.queue, State.setQueue, Entry.answered, e2, e3]

/-- The quotient and remainder of a region's base plus an offset below its size. -/
theorem base_offset {k b o : Nat} (hk : 0 < k) (h : o < k) : (b * k + o) / k = b ∧ (b * k + o) % k = o :=
  ⟨by rw [Nat.add_comm, Nat.add_mul_div_right _ _ hk, Nat.div_eq_of_lt h, Nat.zero_add],
   by rw [Nat.add_comm, Nat.add_mul_mod_self_right, Nat.mod_eq_of_lt h]⟩

/-- The floor offset of a floor address (R161). -/
theorem PathSwitch.address_mod (p : PathSwitch) {offset : Nat} (ho : offset < 2 ^ 24) :
    p.address offset % 2 ^ 24 = offset := by
  rw [PathSwitch.address]; exact (base_offset (Nat.two_pow_pos 24) ho).2

/-- The upper bits of a floor address are BASE (R161). -/
theorem PathSwitch.address_div (p : PathSwitch) {offset : Nat} (ho : offset < 2 ^ 24) :
    p.address offset / 2 ^ 24 = p.base.toNat := by
  rw [PathSwitch.address]; exact (base_offset (Nat.two_pow_pos 24) ho).1

/-- A floor address is decoded while the path switch decodes (R161, R162). -/
theorem PathSwitch.address_decodes {p : PathSwitch} {offset : Nat} (ha : p.active = true) (ho : offset < 2 ^ 24) :
    p.decodes (p.address offset) = true := by
  rw [PathSwitch.decodes, p.address_div ho, ha, beq_self_eq_true]; rfl

/-- A burst to a floor offset of a queue with room is treated by its area (R163, R166). -/
theorem State.takeBurst_inside {s : State} {m offset : Nat} (ha : s.path.active = true) (hq : s.queueFull m = false)
    (ho : offset < 2 ^ 24) (op : BurstOp) :
    s.takeBurst m (s.path.address offset) op = s.takeInside m (s.path.address offset) offset op := by
  rw [State.takeBurst, hq, PathSwitch.address_decodes ha ho, s.path.address_mod ho]; rfl

/-- The response queues apart, `ready` changes nothing but the responses returned. -/
@[simp] theorem State.ready_way {s : State} {m offset : Nat} : s.ready.Way m offset ↔ s.Way m offset := Iff.rfl

/-- A master's full write of a taken cell or a plan record, answered OK, hands its contents to the owning block (R165, R173). -/
theorem State.takeAnswered_taken {s : State} {m offset : Nat} {h : Hand} (hw : s.Way m offset) (ho : offset < 2 ^ 24)
    (ha : areaOf offset = .cell h ∨ ∃ r, areaOf offset = .plan r ∧ h = .plan r) (d : Burst) :
    ∃ x, Taken s m offset d x ∧
      s.takeAnswered m (s.path.address offset) (fullWrite d) .ok = x.hand h d := by
  obtain ⟨x, hx, he⟩ := forward_taken (m := m) h d hw.2.2
  refine ⟨x, hx, ?_⟩
  have ht : s.takeBurst m (s.path.address offset) (fullWrite d) =
      s.forward m (s.path.address offset) (.write d Enables.full) h := by
    rw [State.takeBurst_inside hw.1 hw.2.1 ho]
    rcases ha with ha | ⟨r, ha, rfl⟩ <;> simp [fullWrite, State.takeInside, ha]
  have hf : (s.forward m (s.path.address offset) (.write d Enables.full) h).path.fwdWait.any
      (fun f => f.id == s.path.nextId) = true := by
    simp [State.forward]
  simp only [State.takeAnswered, ht, hf, if_true]
  exact he

/-- The block is handed the contents: the path switch still decodes (R162). -/
theorem Taken.active {s x : State} {m offset : Nat} {d : Burst} (h : Taken s m offset d x) (hw : s.Way m offset) :
    x.path.active = true := by
  have := hw.1
  simp only [PathSwitch.active, h.resetAsserted, h.decodeEn] at this ⊢
  exact this

end Sys2Proof.Machine
end

