-- ==== Sys2Proof/Laws/Areas.lean ====
section
/-!
SUPPORT. The area of each floor offset that a command names (the table of 08).
-/

namespace Sys2Proof.Machine

theorem areaOf_views {o : Nat} (h : o < 0x080000) : areaOf o = .views := by
  simp only [areaOf, h, if_true]

theorem areaOf_home {s q : Nat} (hs : s < 384) (hq : q < 8) : areaOf (homeOffset s q) = .home s := by
  obtain ⟨o, h, e⟩ : ∃ o, o = 0x080000 + s * 256 + q * 32 ∧ homeOffset s q = o := ⟨_, rfl, rfl⟩
  rw [e, areaOf]
  iterate 1 rw [if_neg (by omega)]
  rw [if_pos (by omega)]
  exact congrArg Area.home (by omega)

theorem areaOf_inbound {n : Nat} (hn : n < 128) : areaOf (inboundOffset n) = .cell (.inbound n) := by
  obtain ⟨o, h, e⟩ : ∃ o, o = 0x098000 + n * 64 ∧ inboundOffset n = o := ⟨_, rfl, rfl⟩
  rw [e, areaOf]
  iterate 2 rw [if_neg (by omega)]
  iterate 2 rw [if_pos (by omega)]
  exact congrArg (fun k => Area.cell (.inbound k)) (by omega)

theorem areaOf_outbound {n : Nat} (hn : n < 128) : areaOf (outboundOffset n) = .own := by
  obtain ⟨o, h, e⟩ : ∃ o, o = 0x098000 + n * 64 + 32 ∧ outboundOffset n = o := ⟨_, rfl, rfl⟩
  rw [e, areaOf]
  iterate 2 rw [if_neg (by omega)]
  rw [if_pos (by omega)]
  exact if_neg (by omega)

theorem areaOf_request {c : Nat} (hc : c < 256) : areaOf (requestOffset c) = .cell (.request c) := by
  obtain ⟨o, h, e⟩ : ∃ o, o = 0x09A000 + c * 32 ∧ requestOffset c = o := ⟨_, rfl, rfl⟩
  rw [e, areaOf]
  iterate 3 rw [if_neg (by omega)]
  rw [if_pos (by omega)]
  exact congrArg (fun k => Area.cell (.request k)) (by omega)

theorem areaOf_noticeConsumer {k : Nat} (hk : k < 4) : areaOf (noticeConsumerOffset k) = .cell (.noticeConsumer k) := by
  obtain ⟨o, h, e⟩ : ∃ o, o = 0x09C000 + k * 32 ∧ noticeConsumerOffset k = o := ⟨_, rfl, rfl⟩
  rw [e, areaOf]
  iterate 4 rw [if_neg (by omega)]
  rw [if_pos (by omega)]
  exact congrArg (fun j => Area.cell (.noticeConsumer j)) (by omega)

theorem areaOf_recordConsumer : areaOf recordConsumerOffset = .cell .recordConsumer := by decide

theorem areaOf_plan {r : Nat} (hr : r < 2048) : areaOf (planOffset r) = .plan r := by
  obtain ⟨o, h, e⟩ : ∃ o, o = 0x0A0000 + r * 32 ∧ planOffset r = o := ⟨_, rfl, rfl⟩
  rw [e, areaOf]
  iterate 7 rw [if_neg (by omega)]
  rw [if_pos (by omega)]
  exact congrArg Area.plan (by omega)

/-- The offsets of the cells and records lie in the 16 MiB of the floor region (R161). -/
theorem requestOffset_lt {c : Nat} (hc : c < 256) : requestOffset c < 2 ^ 24 := by
  simp only [requestOffset]; omega

theorem inboundOffset_lt {n : Nat} (hn : n < 128) : inboundOffset n < 2 ^ 24 := by simp only [inboundOffset]; omega

theorem noticeConsumerOffset_lt {k : Nat} (hk : k < 4) : noticeConsumerOffset k < 2 ^ 24 := by
  simp only [noticeConsumerOffset]; omega

theorem planOffset_lt {r : Nat} (hr : r < 2048) : planOffset r < 2 ^ 24 := by simp only [planOffset]; omega

theorem homeOffset_lt {s q : Nat} (hs : s < 384) (hq : q < 8) : homeOffset s q < 2 ^ 24 := by
  simp only [homeOffset]; omega

end Sys2Proof.Machine
end

