-- ==== Sys2Proof/Laws/Checks.lean ====
section
/-!
SUPPORT. Laws. The checks of LINE_KEY and GROUP_JOIN as functions that the kernel evaluates: the code with which a check fails, where it
fails.
-/

namespace Sys2Proof.Machine

theorem Occupancy.line?_isSome (o : Occupancy) : o.line?.isSome = true ↔ ∃ m, o = .line m := by
  cases o <;> simp [Occupancy.line?]

theorem RecorderState.healthy_iff (x : RecorderState) : x = .healthy ↔ x ≠ .outage := by cases x <;> simp

theorem fin_forall {n : Nat} {p : Nat → Prop} : (∀ c : Fin n, p c) ↔ ∀ c < n, p c :=
  ⟨fun h c hc => h ⟨c, hc⟩, fun h c => h c c.2⟩

theorem channelFree_fin (s : State) (n : Nat) :
    s.ChannelFree n ↔ ((s.lineAt n).status = .idle ∨ (s.lineAt n).status = .inboundRing ∨ (s.lineAt n).status = .unanswered ∨
      ((s.lineAt n).status = .held ∧ ∀ c : Fin 64, (s.channel c).bound ≠ some (.line n))) := by
  rw [fin_forall (p := fun c => (s.channel c).bound ≠ some (.line n))]; rfl

theorem poolEmpty_fin (s : State) : s.PoolEmpty ↔ ∀ c : Fin 64, (s.channel c).bound ≠ none :=
  (fin_forall (p := fun c => (s.channel c).bound ≠ none)).symm

/-- The code with which check i of a LINE_KEY fails, none where it passes (R86, R87). -/
def keyCode (s : State) (turret handset n : Nat) : Nat → Option Code
  | 1 => if turret ≤ 63 ∧ handset ≤ 1 ∧ n ≤ 127 ∧ (s.lineAt n).record.enabled = true then none else some .badRequest
  | 2 => if (s.turret turret).presence = .present then none else some .turretAbsent
  | 3 => if ∀ a ∈ (s.lineAt n).appearances, a.turret ≠ turret then some .notAppearance else none
  | 4 =>
    match s.occupancy (handsetOf turret handset) with
    | .group _ => some .handsetBusy
    | _ => none
  | 5 => if (s.lineAt n).status = .outOfService then some .outOfService else none
  | 6 =>
    if ((s.lineAt n).status = .outboundWait ∨ (s.lineAt n).status = .connected ∨ (s.lineAt n).status = .farCleared) ∧
        ((s.lineAt n).record.privacy ≠ .sharedLine ∨ 4 ≤ (s.lineAt n).joined.length) then some .busy
    else if (s.lineAt n).status = .releasing then some .state
    else none
  | 7 =>
    if ¬ ((s.slot (s.slotFor turret handset)).occupancy < 12 ∨
        ((s.occupancy (handsetOf turret handset)).line?.isSome = true ∧ (s.slot (s.slotFor turret handset)).occupancy = 12)) then
      some .termsFull
    else
      match s.micFor turret handset with
      | none => none
      | some m =>
        if 5 ≤ (s.bus n).occupancy then some .termsFull
        else if ∃ c ∈ (s.bus n).after, m = c.source then some .badRequest
        else none
  | 8 =>
    if ((s.lineAt n).status = .idle ∨ (s.lineAt n).status = .inboundRing ∨ (s.lineAt n).status = .unanswered ∨
        ((s.lineAt n).status = .held ∧ ∀ c : Fin 64, (s.channel c).bound ≠ some (.line n))) ∧
        (s.lineAt n).record.mode = .required then
      if s.recorder.status = .outage then some .recorderDown
      else if ∀ c : Fin 64, (s.channel c).bound ≠ none then some .noRecordChannel
      else none
    else none
  | _ => none

theorem keyFails_six (s : State) (turret handset n : Nat) (c : Code) :
    s.KeyFails turret handset n 6 c ↔ keyCode s turret handset n 6 = some c := by
  simp only [keyCode]; split_ifs with hb hr
  · cases c <;> simp_all [State.KeyFails]; rcases hb.1 with h | h | h <;> simp [h]
  · cases c <;> simp_all [State.KeyFails]
  · cases c <;> simp_all [State.KeyFails]

theorem keyFails_seven (s : State) (turret handset n : Nat) (c : Code) :
    s.KeyFails turret handset n 7 c ↔ keyCode s turret handset n 7 = some c := by
  by_cases hf : s.KeyTermFits turret handset
  · have hg := hf
    rw [State.KeyTermFits, ← Occupancy.line?_isSome] at hg
    cases hm : s.micFor turret handset with
    | none => cases c <;> simp [State.KeyFails, keyCode, hf, hg, hm]
    | some m =>
      simp only [keyCode, hg, hm, not_true, if_false]
      split_ifs with h5 hd
      · cases c <;> simp [State.KeyFails, hf, hm, h5]
      · cases c <;> simp [State.KeyFails, hf, hm, h5]; exact ⟨by omega, hd⟩
      · cases c <;> simp [State.KeyFails, hf, hm, h5]; simpa using fun _ => hd
  · have hg := hf
    rw [State.KeyTermFits, ← Occupancy.line?_isSome] at hg
    cases c <;> simp [State.KeyFails, keyCode, hf, hg]

theorem keyFails_eight (s : State) (turret handset n : Nat) (c : Code) :
    s.KeyFails turret handset n 8 c ↔ keyCode s turret handset n 8 = some c := by
  simp only [keyCode]; split_ifs with hf ho hp
  · rw [← channelFree_fin] at hf; cases c <;> simp [State.KeyFails, hf, ho]
  · rw [← channelFree_fin] at hf; rw [← poolEmpty_fin] at hp
    cases c <;> simp [State.KeyFails, hf, hp, RecorderState.healthy_iff, ho]
  · rw [← poolEmpty_fin] at hp; cases c <;> simp [State.KeyFails, hp, ho]
  · rw [← channelFree_fin] at hf
    cases c <;> simp [State.KeyFails] <;> (intro h1 h2; exact absurd ⟨h1, h2⟩ hf)

/-- A check of a LINE_KEY fails with a code exactly where `keyCode` is that code. -/
theorem keyFails_iff (s : State) (turret handset n i : Nat) (c : Code) :
    s.KeyFails turret handset n i c ↔ keyCode s turret handset n i = some c := by
  match i with
  | 0 => simp [State.KeyFails, keyCode]
  | 1 => cases c <;> simp [State.KeyFails, keyCode]
  | 2 => cases c <;> simp [State.KeyFails, keyCode]
  | 3 => cases c <;> simp [State.KeyFails, keyCode]
  | 4 => cases h : s.occupancy (handsetOf turret handset) <;> cases c <;> simp [State.KeyFails, keyCode, h]
  | 5 => cases c <;> simp [State.KeyFails, keyCode]
  | 6 => exact keyFails_six ..
  | 7 => exact keyFails_seven ..
  | 8 => exact keyFails_eight ..
  | i + 9 => simp [State.KeyFails, keyCode]

/-- The code with which check i of a GROUP_JOIN fails, none where it passes (R120, R121). -/
def joinCode (s : State) (j : JoinRequest) : Nat → Option Code
  | 1 =>
    if j.turret ≤ 63 ∧ j.group ≤ 31 ∧ (s.groupAt j.group).record.enabled = true ∧ j.attach ≤ 2 ∧ (j.attach = 2 → j.slot ≤ 255) ∧
        ((s.groupAt j.group).record.kind = .box →
          j.attach = 2 ∧ (j.talk = true → (s.turret j.turret).record.micSpeaker.isSome = true)) then none
    else some .badRequest
  | 2 => if (s.turret j.turret).presence = .present then none else some .turretAbsent
  | 3 => if ∃ m ∈ (s.groupAt j.group).members, m.turret = j.turret then some .alreadyMember else none
  | 4 =>
    match (s.groupAt j.group).record.kind with
    | .intercom => if 16 ≤ (s.groupAt j.group).members.length then some .groupFull else none
    | .box =>
      if 64 ≤ (s.groupAt j.group).members.length ∨
          (j.talk = true ∧ 20 ≤ ((s.groupAt j.group).members.filter (·.talker)).length) then some .groupFull
      else none
  | 5 => if j.attach ≤ 1 ∧ s.occupancy (j.turret * 2 + j.attach) ≠ .vacant then some .handsetBusy else none
  | 6 =>
    if 12 ≤ (s.slot (s.joinSlot j)).occupancy then some .termsFull
    else
      match s.joinMic j with
      | none => none
      | some m =>
        if 24 ≤ (s.bus (128 + j.group)).occupancy then some .termsFull
        else if (s.bus (128 + j.group)).after.any (fun c => m == c.source) then some .badRequest
        else none
  | 7 =>
    if (s.groupAt j.group).members = [] ∧ (s.groupAt j.group).record.mode = .required then
      if s.recorder.status = .outage then some .recorderDown
      else if ∀ c : Fin 64, (s.channel c).bound ≠ none then some .noRecordChannel
      else none
    else none
  | _ => none

theorem joinFails_four (s : State) (j : JoinRequest) (c : Code) : s.JoinFails j 4 c ↔ joinCode s j 4 = some c := by
  cases hk : (s.groupAt j.group).record.kind <;> simp only [joinCode, hk] <;> split_ifs with h <;>
    cases c <;> simp only [State.JoinFails, hk] <;> simp [h]

theorem joinFails_six (s : State) (j : JoinRequest) (c : Code) : s.JoinFails j 6 c ↔ joinCode s j 6 = some c := by
  by_cases hf : 12 ≤ (s.slot (s.joinSlot j)).occupancy
  · cases c <;> simp [State.JoinFails, joinCode, hf]
  · cases hm : s.joinMic j with
    | none => cases c <;> simp [State.JoinFails, joinCode, hf, hm]
    | some m =>
      simp only [joinCode, hf, hm, if_false]
      split_ifs with h5 hd
      · cases c <;> simp [State.JoinFails, hf, hm, h5]
      · rw [List.any_eq_true] at hd
        cases c <;> simp [State.JoinFails, hf, hm, h5]; exact ⟨by omega, by omega, by simpa using hd⟩
      · rw [List.any_eq_true] at hd
        cases c <;> simp [State.JoinFails, hf, hm, h5]; intro _ _; simpa using hd

theorem joinFails_seven (s : State) (j : JoinRequest) (c : Code) : s.JoinFails j 7 c ↔ joinCode s j 7 = some c := by
  simp only [joinCode]; split_ifs with hf ho hp
  · cases c <;> simp [State.JoinFails, hf, ho]
  · rw [← poolEmpty_fin] at hp; cases c <;> simp [State.JoinFails, hf, hp, RecorderState.healthy_iff, ho]
  · rw [← poolEmpty_fin] at hp; cases c <;> simp [State.JoinFails, hp, ho]
  · cases c <;> simp [State.JoinFails] <;> (intro h1 h2; exact absurd ⟨h1, h2⟩ hf)

/-- A check of a GROUP_JOIN fails with a code exactly where `joinCode` is that code. -/
theorem joinFails_iff (s : State) (j : JoinRequest) (i : Nat) (c : Code) : s.JoinFails j i c ↔ joinCode s j i = some c := by
  match i with
  | 0 => simp [State.JoinFails, joinCode]
  | 1 =>
    simp only [joinCode]; split_ifs with h
    · cases c <;> simp only [State.JoinFails, iff_false, not_not]; exact h
    · cases c <;> simp only [State.JoinFails] <;> simp [h]
  | 2 => cases c <;> simp [State.JoinFails, joinCode]
  | 3 => cases c <;> simp [State.JoinFails, joinCode]
  | 4 => exact joinFails_four ..
  | 5 => cases c <;> simp [State.JoinFails, joinCode]
  | 6 => exact joinFails_six ..
  | 7 => exact joinFails_seven ..
  | i + 8 => simp [State.JoinFails, joinCode]

/-- The first check that fails, found by evaluation. -/
theorem failsFirst_of {fails : Nat → Code → Prop} {f : Nat → Option Code} (h : ∀ i c, fails i c ↔ f i = some c) {i : Nat} {c : Code}
    (hi : f i = some c) (hb : ∀ j < i, f j = none) : FailsFirst fails i c :=
  ⟨(h i c).2 hi, fun j hj d hd => by simp [hb j hj, h] at hd⟩

theorem keyFails_none {s : State} {turret handset n : Nat} (h : ∀ i < 9, keyCode s turret handset n i = none) (i : Nat) (c : Code) :
    ¬ s.KeyFails turret handset n i c := by
  rw [keyFails_iff]
  rcases Nat.lt_or_ge i 9 with hi | hi
  · simp [h i hi]
  · obtain ⟨k, rfl⟩ := Nat.exists_eq_add_of_le' hi; simp [keyCode]

theorem joinFails_none {s : State} {j : JoinRequest} (h : ∀ i < 8, joinCode s j i = none) (i : Nat) (c : Code) :
    ¬ s.JoinFails j i c := by
  rw [joinFails_iff]
  rcases Nat.lt_or_ge i 8 with hi | hi
  · simp [h i hi]
  · obtain ⟨k, rfl⟩ := Nat.exists_eq_add_of_le' hi; simp [joinCode]

end Sys2Proof.Machine
end

