-- ==== Sys2Proof/Laws/Requests.lean ====
section
/-!
SUPPORT. What a request cell's bytes give back, and what writing one comes to: the checks of R182, then the owner.
-/

namespace Sys2Proof.Machine

/-- The bytes of a list from one place on. -/
theorem bytesValue_drop (l : List Byte) (i : Nat) : bytesValue l / 256 ^ i = bytesValue (l.drop i) := by
  induction i generalizing l with
  | zero => simp
  | succ i ih =>
    cases l with
    | nil => simp [bytesValue]
    | cons b rest =>
      have : bytesValue (b :: rest) / 256 = bytesValue rest := by
        simp only [bytesValue]; have := b.isLt; omega
      rw [Nat.pow_succ', ← Nat.div_div_eq_div_mul, this, ih, List.drop_succ_cons]

/-- The first bytes of a list. -/
theorem bytesValue_take (l : List Byte) (n : Nat) : bytesValue l % 256 ^ n = bytesValue (l.take n) := by
  induction n generalizing l with
  | zero => simp [bytesValue, Nat.mod_one]
  | succ n ih =>
    cases l with
    | nil => simp [bytesValue]
    | cons b rest =>
      have hb := b.isLt
      rw [List.take_succ_cons]
      simp only [bytesValue]
      rw [← ih rest, Nat.pow_succ', Nat.mod_mul]
      congr 1
      · omega
      · congr 2; omega

/-- A field of the burst that some bytes make is the number those bytes hold. -/
theorem field_packBytes (l : List Byte) (off len : Nat) (h : off + len ≤ 32) :
    field (packBytes l) off len = bytesValue ((l.drop off).take len) := by
  have e1 : (2 : Nat) ^ (8 * off) = 256 ^ off := by rw [Nat.pow_mul]
  have e2 : (2 : Nat) ^ (8 * len) = 256 ^ len := by rw [Nat.pow_mul]
  have e3 : (2 : Nat) ^ 256 = 256 ^ off * 256 ^ (32 - off) := by
    rw [← Nat.pow_add, Nat.add_sub_cancel' (by omega : off ≤ 32)]; rfl
  rw [field, packBytes, BitVec.toNat_ofNat, e1, e2, e3, Nat.mod_mul_right_div_self, bytesValue_drop,
    Nat.mod_mod_of_dvd _ (Nat.pow_dvd_pow 256 (by omega : len ≤ 32 - off)), bytesValue_take]

/-- A number's little-endian bytes hold the number, as far as they reach. -/
@[simp] theorem bytesValue_le (n v : Nat) : bytesValue (le n v) = v % 256 ^ n := by
  induction n generalizing v with
  | zero => simp [le, bytesValue, Nat.mod_one]
  | succ n ih =>
    have h : v % 256 ^ (n + 1) = v % 256 + 256 * (v / 256 % 256 ^ n) := by rw [Nat.pow_succ', Nat.mod_mul]
    rw [h, le, bytesValue, ih, BitVec.toNat_ofNat]

@[simp] theorem length_le (n v : Nat) : (le n v).length = n := by
  induction n generalizing v with
  | zero => rfl
  | succ n ih => simp [le, ih]

/-- The kind, reply ring and tag that a request cell gives back (R182). -/
theorem requestCell_head (h : RequestHead) (k : RequestKind) (fields : List Byte) :
    RequestKind.list[field (requestCell h k fields) 0 1]? = some k ∧
      replyOf h.cell.val (requestCell h k fields) =
        { cell := h.cell.val, ring := h.ring.toNat, tag := h.tag.toNat } := by
  have h1 := h.ring.isLt
  have h2 := h.tag.isLt
  refine ⟨?_, ?_⟩
  · rw [requestCell, field_packBytes _ _ _ (by omega)]
    simp only [le, List.cons_append, List.nil_append, List.drop_zero, List.take_succ_cons,
      List.take_zero, bytesValue]
    cases k <;> rfl
  · simp only [replyOf, requestCell]
    rw [field_packBytes _ _ _ (by omega), field_packBytes _ _ _ (by omega)]
    simp only [le, List.cons_append, List.nil_append, List.drop_succ_cons, List.drop_zero,
      List.take_succ_cons, List.take_zero, bytesValue, BitVec.toNat_ofNat]
    simp only [ReplyTo.mk.injEq]
    refine ⟨trivial, ?_, ?_⟩ <;> omega

/-- A field of a request cell beyond its head is a field of the bytes that follow it (11, Cells). -/
theorem requestCell_field (h : RequestHead) (k : RequestKind) (fields : List Byte) (off len : Nat)
    (hl : off + 4 + len ≤ 32) :
    field (requestCell h k fields) (off + 4) len = bytesValue ((fields.drop off).take len) := by
  rw [requestCell, field_packBytes _ _ _ hl]
  simp only [le, List.cons_append, List.nil_append, List.drop_succ_cons]

/-- A request cell written whole and answered OK is taken by the plan unit (R165, R182). -/
theorem State.writeRequest_taken {s : State} {m : Master} {cell : Fin 256} (hw : s.Way m (requestOffset cell)) (d : Burst) :
    ∃ x, Taken s.ready m (requestOffset cell) d x ∧ s.writeRequest m cell d = x.takeRequest cell d := by
  obtain ⟨x, hx, he⟩ := State.takeAnswered_taken (s := s.ready) (m := m) (h := .request cell) hw
    (requestOffset_lt cell.isLt) (.inl (areaOf_request cell.isLt)) d
  refine ⟨x, hx, he.trans ?_⟩
  simp only [State.hand, hx.active (State.ready_way.mpr hw), if_true]

/-- A state in which a block is handed a write is the state before, but for the path switch and memory. -/
theorem Taken.eq {s x : State} {m o : Nat} {d : Burst} (h : Taken s.ready m o d x) :
    x = { s with path := x.path, mem := x.mem } := by
  obtain ⟨h1, h2, h3, h4, h5, h6, h7, h8, h9⟩ := h
  cases x; cases s
  simp only [State.ready] at *
  subst h1 h2 h3 h4 h5 h6 h7 h8 h9
  rfl

/-- The turret, handset and line that a line request's cell gives back (11, Cells). -/
theorem lineFields_back (head : RequestHead) (k : RequestKind) (turret handset : BitVec 8) (line : BitVec 16) :
    field (requestCell head k (lineFields turret handset line)) 4 1 = turret.toNat ∧
    field (requestCell head k (lineFields turret handset line)) 5 1 = handset.toNat ∧
    field (requestCell head k (lineFields turret handset line)) 6 2 = line.toNat := by
  have h1 := turret.isLt
  have h2 := handset.isLt
  have h3 := line.isLt
  refine ⟨?_, ?_, ?_⟩
  · rw [requestCell_field _ _ _ 0 1 (by omega)]
    simp [lineFields, bytesValue]
  · rw [requestCell_field _ _ _ 1 1 (by omega)]
    simp [lineFields, bytesValue]
  · rw [requestCell_field _ _ _ 2 2 (by omega)]
    simp [lineFields, bytesValue, le]
    omega

/-- The turret and group that a group request's cell gives back (11, Cells). -/
theorem groupFields_back (head : RequestHead) (k : RequestKind) (turret group : BitVec 8) :
    field (requestCell head k [turret, group]) 4 1 = turret.toNat ∧
    field (requestCell head k [turret, group]) 5 1 = group.toNat := by
  refine ⟨?_, ?_⟩
  · rw [requestCell_field _ _ _ 0 1 (by omega)]; simp [bytesValue]
  · rw [requestCell_field _ _ _ 1 1 (by omega)]; simp [bytesValue]

/-- A request of a ring that exists, with no restart pending, goes to its owner (R182). -/
theorem State.request_dispatched {s : State} {h : RequestHead} (hw : s.Way h.master (requestOffset h.cell))
    (hr : h.ring.toNat ≤ 3) (hp : s.plan.restart = none) (k : RequestKind) (fields : List Byte) :
    ∃ x, Taken s.ready h.master (requestOffset h.cell) (requestCell h k fields) x ∧
      s.request h k fields =
        x.dispatch { cell := h.cell.val, ring := h.ring.toNat, tag := h.tag.toNat } (requestCell h k fields) k := by
  obtain ⟨x, hx, he⟩ := State.writeRequest_taken hw (requestCell h k fields)
  refine ⟨x, hx, he.trans ?_⟩
  obtain ⟨h1, h2⟩ := requestCell_head h k fields
  have h3 : x.plan.restart = none := by rw [hx.plan]; exact hp
  simp only [State.takeRequest, h1, h2, h3]
  rw [if_neg (by omega)]
  rfl

end Sys2Proof.Machine
end

