-- ==== Sys2Proof/Laws/Commands.lean ====
section
/-!
SUPPORT. What every command comes to: the state after it, so that a proof over all commands splits them once.
-/

namespace Sys2Proof.Machine

@[simp] theorem State.ready_frame (s : State) :
    s.ready.src = s.src ∧ s.ready.mix = s.mix ∧ s.ready.line = s.line ∧ s.ready.ring = s.ring ∧ s.ready.group = s.group ∧
    s.ready.recorder = s.recorder ∧ s.ready.path = { s.path with returned := [] } ∧ s.ready.plan = s.plan ∧
    s.ready.notice = s.notice ∧ s.ready.mem = s.mem ∧ s.ready.pending = s.pending :=
  ⟨rfl, rfl, rfl, rfl, rfl, rfl, rfl, rfl, rfl, rfl, rfl⟩

/-- What the path switch keeps over a release of RESET: the traffic not yet answered, an image's burst being no image's any more
(R162, R172). -/
theorem PathSwitch.release_unanswered (p : PathSwitch) (base : BitVec 8) (decodeEn : Bool) :
    (p.release base decodeEn).unanswered = p.unanswered.map Flight.overReset ∧
    (p.release base decodeEn).queues = p.queues ∧ (p.release base decodeEn).nextId = p.nextId ∧
    (p.release base decodeEn).resetAsserted = false := by
  simp [PathSwitch.release, PathSwitch.unanswered]

/-- A burst over a release of RESET keeps its number, address and kind, and belongs to no image; a burst of another owner is as
it was (R162). -/
theorem Flight.overReset_cases (f : Flight) :
    f.overReset.id = f.id ∧ f.overReset.addr = f.addr ∧ f.overReset.op = f.op ∧
    f.overReset.owner ≠ .levelImage ∧ f.overReset.owner ≠ .stateImage ∧
    (f.owner ≠ .levelImage → f.owner ≠ .stateImage → f.overReset = f) := by
  cases h : f.owner <;> simp [Flight.overReset, h]

/-- The state after a command. -/
def after (c : Instr) (s : State) : State :=
  match c with
  | .resetAssert => { s.ready with path.resetAsserted := true }
  | .resetRelease base decodeEn =>
    { State.reset with
      mix.listens := s.mix.listens, path := s.path.release base decodeEn, mem := s.mem, pending := s.pending }
  | .frameClose order => if s.running then s.ready.close order else s.ready
  | .clockLost => if s.clockRuns then s.ready.loseClock else s.ready
  | .secondStrobe => if s.running then s.ready.secondStrobe else s.ready
  | .forwardedBurst (.taken m addr op ans) => s.ready.takeAnswered m addr.toNat op ans
  | .forwardedBurst .presented => { s.ready with path := s.ready.path.presentOne }
  | .forwardedBurst (.answered n ok) => s.ready.answerNth (fun o => !o.isOwn) n ok
  | .forwardedBurst (.ownAnswered n) => s.ready.answerNth Owner.isOwn n true
  | .burstAnsweredError m addr op => s.ready.takeBurst m addr.toNat op
  | .talkWrite m view place data => s.ready.takeBurst m (s.talkAddress view place) (fullWrite data)
  | .gatherBurst m view place data => s.ready.takeBurst m (s.talkAddress view place) (fullWrite data)
  | .homeRead m view place => s.ready.takeBurst m (s.talkAddress view place) .read
  | .listenRead m view place => s.ready.takeBurst m (s.listenAddress view place) .read
  | .sourceHomeWrite m source position data enables ans =>
    s.ready.takeAnswered m (s.path.address (homeOffset source position)) (.write data enables) ans
  | .inboundSignalWrite m line data => s.ready.takeAnswered m (s.path.address (inboundOffset line)) (fullWrite data) .ok
  | .partialCellWrite m addr data enables ans => s.ready.takeAnswered m addr.toNat (.write data enables) ans
  | .lineKey head turret handset line => s.request head .lineKey (lineFields turret handset line)
  | .lineRelease head turret handset line => s.request head .lineRelease (lineFields turret handset line)
  | .lineHold head turret handset line => s.request head .lineHold (lineFields turret handset line)
  | .groupJoin head turret group attach talkCap listenSlot listenGain talkGain =>
    s.request head .groupJoin
      ([turret, group, attach, talkCap] ++ le 2 listenSlot.toNat ++ le 2 listenGain.toNat ++ le 2 talkGain.toNat)
  | .groupLeave head turret group => s.request head .groupLeave [turret, group]
  | .talkKey head turret group => s.request head .talkKey [turret, group]
  | .talkUnkey head turret group => s.request head .talkUnkey [turret, group]
  | .setTime head seconds => s.request head .setTime (le 4 seconds.toNat)
  | .levelSnapshot head => s.request head .levelSnapshot []
  | .stateImage head => s.request head .stateImage []
  | .clearCounts head => s.request head .clearCounts []
  | .floorRestart head => s.request head .floorRestart []
  | .badRequest m cell data => s.writeRequest m cell data
  | .recordConsumerWrite m data => s.ready.takeAnswered m (s.path.address recordConsumerOffset) (fullWrite data) .ok
  | .noticeConsumerWrite m ring data =>
    s.ready.takeAnswered m (s.path.address (noticeConsumerOffset ring)) (fullWrite data) .ok
  | .planWrite m record data => s.ready.takeAnswered m (s.path.address (planOffset record)) (fullWrite data) .ok
  | .planPartialWrite m record data enables ans =>
    s.ready.takeAnswered m (s.path.address (planOffset record)) (.write data enables) ans
  | .homeWriteAnswered n ok => s.ready.answerNth Owner.isHomeWrite n ok
  | .homeReadAnswered n ok => s.ready.answerNth Owner.isHomeRead n ok
  | .listenReadComplete n => s.ready.completeListen n
  | .memoryFault n => s.ready.answerNth Owner.isOwn n false
  | .recordPlace => if s.running then s.ready.placeRecord else s.ready
  | .recordProgressWrite => if s.running then s.ready.recordProgress else s.ready
  | .noticeProgressWrite ring index => if s.running then s.ready.publish ring index else s.ready
  | .levelImageDone => if s.running then s.ready.levelsDone else s.ready
  | .stateImageDone => if s.running then s.ready.stateDone else s.ready
  | .turretLost turret => if s.clockRuns then s.ready.takeLoss s.plan.floor.lossLimit turret else s.ready
  | .ringLimit line => if s.clockRuns then s.ready.takeRingLimit line else s.ready
  | .releaseTimeout line => if s.clockRuns then s.ready.takeReleaseTimeout line else s.ready
  | .keyTimeout group turret => if s.clockRuns then s.ready.takeKeyTimeout 1 group turret else s.ready
  | .guardOn source => if s.clockRuns then s.ready.takeGuard source else s.ready
  | .cadenceStepEnd player => if s.clockRuns then s.ready.takeStepEnd player else s.ready
  | .hangExpiry source => if s.clockRuns then s.ready.takeHangExpiry source else s.ready

/-- Every command answers the state after it. -/
theorem exec_after (c : Instr) (s : State) : exec c s = .next (after c s) := by
  cases c
  case forwardedBurst e => cases e <;> rfl
  all_goals rfl

/-- Taking a guard that is due leaves all but the sources and a notice. -/
@[simp] theorem State.takeGuard_frame (s : State) (i : Nat) :
    (s.takeGuard i).src.F = s.src.F ∧ (s.takeGuard i).src.lag = s.src.lag ∧ (s.takeGuard i).src.views = s.src.views ∧
    (s.takeGuard i).src.turrets = s.src.turrets ∧ (s.takeGuard i).mix = s.mix ∧ (s.takeGuard i).line = s.line ∧
    (s.takeGuard i).ring = s.ring ∧ (s.takeGuard i).group = s.group ∧ (s.takeGuard i).recorder = s.recorder ∧
    (s.takeGuard i).path.queues = s.path.queues ∧ (s.takeGuard i).plan = s.plan ∧ (s.takeGuard i).mem = s.mem ∧
    (s.takeGuard i).pending = s.pending := by
  simp only [State.takeGuard]; split <;> simp

/-- The end of a player's step leaves all but the players. -/
@[simp] theorem State.takeStepEnd_frame (s : State) (n : Nat) :
    (s.takeStepEnd n).src = s.src ∧ (s.takeStepEnd n).mix = s.mix ∧ (s.takeStepEnd n).line = s.line ∧
    (s.takeStepEnd n).ring.programs = s.ring.programs ∧ (s.takeStepEnd n).group = s.group ∧
    (s.takeStepEnd n).recorder = s.recorder ∧ (s.takeStepEnd n).path = s.path ∧ (s.takeStepEnd n).plan = s.plan ∧
    (s.takeStepEnd n).notice = s.notice ∧ (s.takeStepEnd n).mem = s.mem ∧ (s.takeStepEnd n).pending = s.pending := by
  simp only [State.takeStepEnd]; split <;> simp

/-- The expiry of a hang leaves all but the sources. -/
@[simp] theorem State.takeHangExpiry_frame (s : State) (i : Nat) :
    (s.takeHangExpiry i).src.F = s.src.F ∧ (s.takeHangExpiry i).src.lag = s.src.lag ∧
    (s.takeHangExpiry i).src.views = s.src.views ∧ (s.takeHangExpiry i).src.turrets = s.src.turrets ∧
    (s.takeHangExpiry i).mix = s.mix ∧ (s.takeHangExpiry i).line = s.line ∧ (s.takeHangExpiry i).ring = s.ring ∧
    (s.takeHangExpiry i).group = s.group ∧ (s.takeHangExpiry i).recorder = s.recorder ∧
    (s.takeHangExpiry i).path = s.path ∧ (s.takeHangExpiry i).plan = s.plan ∧ (s.takeHangExpiry i).notice = s.notice ∧
    (s.takeHangExpiry i).mem = s.mem ∧ (s.takeHangExpiry i).pending = s.pending := by
  simp only [State.takeHangExpiry]; split <;> simp

end Sys2Proof.Machine
end

