-- ==== Sys2Proof/Laws/CloseEffects.lean ====
section
/-!
SUPPORT. What a close leaves in the fields that it does change: the clock, the lag, the floor counts, the floor time, and what was
waiting for it.
-/

namespace Sys2Proof.Machine

/-- The work of a close in order; the ringing lines and running players are those it found. -/
theorem State.close_eq (s : State) (o : CloseOrder) :
    ∃ a b, s.close o = ((((s.beginClose.closeEdits.closeIntake o).closeControl o a).closeRecords o b).closeResults
      ).captureLevels.captureState := ⟨_, _, rfl⟩

/-- F grows by one, CLOCK_LOST is over and the fault notice mark clear (R1, R3, R170). -/
theorem State.beginClose_clock (s : State) :
    s.beginClose.src.F = s.src.F + 1 ∧ s.beginClose.src.clockLost = false ∧ s.beginClose.path.faultMark = false := by
  simp only [State.beginClose, State.restoreClock]
  split
  · simp
  · rename_i h; simpa using h

/-- The lag and the floor counts as a restart or the edits of a close leave them (R2, R171). -/
theorem State.closeEdits_lag (s : State) :
    s.closeEdits.src.lag = (if s.plan.restart.isSome then s.plan.floor.lag else s.src.lag) ∧
    s.closeEdits.path.partialWrites = (if s.plan.restart.isSome then 0 else s.path.partialWrites) ∧
    s.closeEdits.path.memoryFaults = (if s.plan.restart.isSome then 0 else s.path.memoryFaults) ∧
    s.closeEdits.path.faultMark = s.path.faultMark := by
  simp only [State.closeEdits]
  split <;> simp [State.restartClear, State.restartState, SourceUnit.restart]

/-- The floor counts after the counts asked to be cleared (R184). -/
theorem State.closeIntake_counts (s : State) (o : CloseOrder) :
    (s.closeIntake o).path.partialWrites = (if s.plan.clears = [] then s.path.partialWrites else 0) ∧
    (s.closeIntake o).path.memoryFaults = (if s.plan.clears = [] then s.path.memoryFaults else 0) := by
  simp only [State.closeIntake, State.clearCounts]
  split <;> simp

/-- The edits of a close, slot by slot and bus by bus (R57, R59). -/
theorem MixEngine.applyEdits_get (m : MixEngine) (i : Nat) :
    m.applyEdits.slots.get {} i = (m.slots.get {} i).applyEdits ∧
    m.applyEdits.buses.get {} i = (m.buses.get {} i).applyEdits :=
  ⟨Table.get_map _ _ _ _ rfl, Table.get_map _ _ _ _ rfl⟩

/-- A floor restart of the mix engine, slot by slot and bus by bus (R71). -/
theorem MixEngine.restart_get (m : MixEngine) (i : Nat) :
    m.restart.slots.get {} i = (m.slots.get {} i).restart ∧ m.restart.buses.get {} i = (m.buses.get {} i).restart ∧
    m.restart.cache = {} ∧ m.restart.listens = m.listens :=
  ⟨Table.get_map _ _ _ _ rfl, Table.get_map _ _ _ _ rfl, rfl, rfl⟩

/-- The contributors in force after a close's edits: what is not marked, then the additions in order (R59). -/
theorem Bus.inForce_applyEdits (x : Bus) :
    x.applyEdits.inForce = (x.list.filter BusEntry.stays).map (·.contrib) ++ x.adds.map (·.contrib) := by
  simp [Bus.applyEdits, Bus.inForce, BusAdd.applied, Function.comp_def]

/-- The contributors in force after a floor restart: what records placed and keep, then what records add (R71). -/
theorem Bus.inForce_restart (x : Bus) :
    x.restart.inForce = (x.list.filter BusEntry.survives).map (·.contrib) ++ (x.adds.filter (·.byRecord)).map (·.contrib) := by
  simp [Bus.restart, Bus.inForce, BusAdd.applied, Function.comp_def]

/-- After a floor restart every contributor is one that a record placed, unmarked, and nothing is pending (R71). -/
theorem Bus.restart_byRecord (x : Bus) :
    (∀ e ∈ x.restart.list, e.byRecord = true ∧ e.mark = .keep) ∧ x.restart.adds = [] := by
  constructor
  · intro e he
    simp only [Bus.restart, List.mem_append, List.mem_map, List.mem_filter, BusEntry.survives, BusEntry.stays,
      Bool.and_eq_true, beq_iff_eq] at he
    rcases he with ⟨-, hf⟩ | ⟨f, ⟨-, hf⟩, rfl⟩
    · exact hf
    · exact ⟨hf, rfl⟩
  · rfl

/-- After a floor restart every dynamic term is one that a record placed, unmarked, and nothing is pending; the planned terms,
the volume and the enabled state stay (R71). -/
theorem Slot.restart_byRecord (x : Slot) :
    (∀ d ∈ x.restart.dynamic, d.byRecord = true ∧ d.mark = .keep) ∧ x.restart.adds = [] ∧
    x.restart.planned = x.planned ∧ x.restart.volume = x.volume ∧ x.restart.enabled = x.enabled := by
  refine ⟨fun e he => ?_, rfl, rfl, rfl, rfl⟩
  simp only [Slot.restart, List.mem_append, List.mem_map, List.mem_filter, DynTerm.survives, DynTerm.stays,
    Bool.and_eq_true, beq_iff_eq] at he
  rcases he with ⟨-, hf⟩ | ⟨f, ⟨-, hf⟩, rfl⟩
  · exact hf
  · exact ⟨hf, rfl⟩

/-- Where a key timeout is due (R129, log entry 19). -/
theorem Group.keyDue_iff (x : Group) (k : Nat) (m : Member) :
    x.keyDue k m = true ↔ x.record.enabled = true ∧ x.record.kind = .box ∧ x.record.keyLimit ≠ 0 ∧ m.keyed = true ∧
      x.record.keyLimit + k ≤ m.keyedRun := by
  simp [Group.keyDue, and_assoc]

/-- A key timeout unkeys the member where it is due, and nothing is done where it is not (R129, R130). -/
theorem State.takeKeyTimeout_cases (s : State) (k g t : Nat) :
    (∃ m, (s.groupAt g).member t = some m ∧ (s.groupAt g).keyDue k m = true ∧
      s.takeKeyTimeout k g t = s.setKey g t false .keyTimeout) ∨
    (∀ m, (s.groupAt g).member t = some m → (s.groupAt g).keyDue k m = false) ∧ s.takeKeyTimeout k g t = s := by
  simp only [State.takeKeyTimeout]
  cases h : (s.groupAt g).member t with
  | none => simp
  | some m => cases hd : (s.groupAt g).keyDue k m <;> simp [hd]

/-- What waited for a close no longer waits after it (R184, R186). -/
theorem State.closeResults_plan (s : State) :
    s.closeResults.plan = { s.plan with clears := [], restart := none } := by
  simp only [State.closeResults]
  split
  · rename_i h; simp at h; simp [h]
  · simp

/-- The clock, lag and counts after a close (R1, R2, R3, R170, R171). -/
theorem State.close_clock (s : State) (o : CloseOrder) :
    (s.close o).src.F = s.src.F + 1 ∧ (s.close o).src.clockLost = false ∧ (s.close o).path.faultMark = false ∧
    (s.close o).src.lag = (if s.plan.restart.isSome then s.plan.floor.lag else s.src.lag) ∧
    (s.close o).plan.restart = none ∧ (s.close o).plan.clears = [] ∧
    (s.close o).path.partialWrites =
      (if s.plan.restart.isSome ∨ s.plan.clears ≠ [] then 0 else s.path.partialWrites) ∧
    (s.close o).path.memoryFaults =
      (if s.plan.restart.isSome ∨ s.plan.clears ≠ [] then 0 else s.path.memoryFaults) := by
  obtain ⟨a, b, e⟩ := s.close_eq o
  obtain ⟨h1, h2, h3⟩ := s.beginClose_clock
  obtain ⟨h4, h5, h6, -⟩ := s.beginClose.closeEdits_lag
  obtain ⟨h8, h9⟩ := s.beginClose.closeEdits.closeIntake_counts o
  rw [e]
  simp only [State.captureState_frame, State.captureLevels_frame, State.closeResults_frame, State.closeRecords_frame,
    State.closeControl_frame, State.closeIntake_frame, State.closeEdits_frame, State.closeResults_plan, h1, h2, h3, h4, h5, h6,
    h8, h9, State.beginClose_frame]
  by_cases hr : s.plan.restart.isSome <;> by_cases hc : s.plan.clears = [] <;> simp [hr, hc]

/-- The source unit's work where nothing is staged is that of its sources alone, after the counts asked to be cleared. -/
theorem State.closeIntake_sources (s : State) (o : CloseOrder) (h : s.plan.staging = []) :
    (s.closeIntake o).src.sources = (s.clearCounts.src.sources.map fun _ x => x.close s.P) := by
  have hs : ∀ t : State, t.plan.staging = [] → t.takeStaging.src = t.src := by
    intro t ht; simp [State.takeStaging, State.takeEntries, ht]
  have hp : (s.clearCounts.loseEarly (s.clearCounts.earlyLosses o)).plan.staging = [] := by
    simp [h]
  simp only [State.closeIntake, State.growTurrets, State.closeSources, State.handOnAll_frame, hs _ hp]
  simp [State.P, hs _ hp]

/-- With nothing staged, the floor record and the floor time reach the control work of a close as they were. -/
theorem State.closeIntake_time (s : State) (o : CloseOrder) (h : s.plan.staging = []) :
    (s.closeIntake o).recorder.fresh = s.recorder.fresh ∧ (s.closeIntake o).plan.floor = s.plan.floor := by
  have hp : (s.clearCounts.loseEarly (s.clearCounts.earlyLosses o)).plan.staging = [] := by simp [h]
  have hs : ∀ t : State, t.plan.staging = [] → t.takeStaging.recorder = t.recorder ∧ t.takeStaging.plan.floor = t.plan.floor := by
    intro t ht; simp [State.takeStaging, State.takeEntries, ht]
  simp only [State.closeIntake, State.growTurrets_frame, State.closeSources_frame, (hs _ hp).1, (hs _ hp).2]
  simp

/-- The floor time that the control work of a close leaves (R155, R156). -/
theorem State.closeControl_time (s : State) (o : CloseOrder) (l : List Nat) :
    (s.closeControl o l).recorder.seconds = (s.recorder.closeTime s.plan.floor.timeMode).seconds ∧
    (s.closeControl o l).recorder.frameInSecond = (s.recorder.closeTime s.plan.floor.timeMode).frameInSecond ∧
    (s.closeControl o l).recorder.staged = (s.recorder.closeTime s.plan.floor.timeMode).staged ∧
    (s.closeControl o l).recorder.fresh = (s.recorder.closeTime s.plan.floor.timeMode).fresh := by
  simp [State.closeControl, State.updateTime]

/-- The time update reads and changes only the floor time. -/
theorem RecordUnit.closeTime_congr {r q : RecordUnit} (mode : TimeMode) (h1 : r.seconds = q.seconds)
    (h2 : r.frameInSecond = q.frameInSecond) (h3 : r.staged = q.staged) (h4 : r.fresh = q.fresh) :
    (r.closeTime mode).seconds = (q.closeTime mode).seconds ∧
    (r.closeTime mode).frameInSecond = (q.closeTime mode).frameInSecond ∧
    (r.closeTime mode).staged = (q.closeTime mode).staged ∧ (r.closeTime mode).fresh = (q.closeTime mode).fresh := by
  cases mode <;> simp only [RecordUnit.closeTime, RecordUnit.newSecond, h1, h2, h3, h4] <;> split <;>
    simp only [and_self]

/-- The floor time after a close with nothing staged (R155, R156). -/
theorem State.close_time (s : State) (o : CloseOrder) (h : s.plan.staging = []) :
    (s.close o).recorder.seconds = (s.recorder.closeTime s.plan.floor.timeMode).seconds ∧
    (s.close o).recorder.frameInSecond = (s.recorder.closeTime s.plan.floor.timeMode).frameInSecond ∧
    (s.close o).recorder.staged = (s.recorder.closeTime s.plan.floor.timeMode).staged ∧
    (s.close o).recorder.fresh = (s.recorder.closeTime s.plan.floor.timeMode).fresh := by
  obtain ⟨a, b, e⟩ := s.close_eq o
  obtain ⟨h1, h2, h3, h4⟩ := (s.beginClose.closeEdits.closeIntake o).closeControl_time o a
  obtain ⟨h5, h6⟩ := s.beginClose.closeEdits.closeIntake_time o (by simp [h])
  obtain ⟨k1, k2, k3, k4⟩ := RecordUnit.closeTime_congr s.plan.floor.timeMode
    (r := (s.beginClose.closeEdits.closeIntake o).recorder) (q := s.recorder) (by simp) (by simp) (by simp) (by simp [h5])
  simp only [h6, State.closeEdits_frame, State.beginClose_frame] at h1 h2 h3 h4
  rw [e]
  simp only [State.captureState_frame, State.captureLevels_frame, State.closeResults_frame, State.closeRecords_frame,
    h1, h2, h3, h4, k1, k2, k3, k4, and_self]

end Sys2Proof.Machine
end

