-- ==== Sys2Proof/Laws/Handed.lean ====
section
/-!
SUPPORT. What `Handed` composes of: states between which no notice is handed on, one notice, and one stretch after another.
-/

namespace Sys2Proof.Machine

theorem NoNotice.refl (s : State) : NoNotice s s := ⟨rfl, rfl, rfl, rfl, rfl, rfl⟩

theorem NoNotice.trans {s x t : State} (a : NoNotice s x) (b : NoNotice x t) : NoNotice s t :=
  ⟨b.notice.trans a.notice, b.routing.trans a.routing, b.frame.trans a.frame, b.base.trans a.base, b.active.trans a.active,
    b.bursts.trans a.bursts⟩

/-- A stretch that begins with no notice begins earlier. -/
theorem Handed.before {s x t : State} {l : List Notice} (a : NoNotice s x) (h : Handed x l t) : Handed s l t := by
  cases l with
  | nil => exact a.trans h
  | cons n rest => obtain ⟨y, hy, hr⟩ := h; exact ⟨y, a.trans hy, hr⟩

/-- One stretch after another. -/
theorem Handed.append {s x t : State} {l m : List Notice} (h : Handed s l x) (k : Handed x m t) : Handed s (l ++ m) t := by
  induction l generalizing s with
  | nil => exact k.before h
  | cons n rest ih => obtain ⟨y, hy, hr⟩ := h; exact ⟨y, hy, ih hr⟩

/-- A stretch that ends with no notice ends later. -/
theorem Handed.after {s x t : State} {l : List Notice} (h : Handed s l x) (a : NoNotice x t) : Handed s l t := by
  have := h.append (m := []) a
  rwa [List.append_nil] at this

/-- One notice, handed on where the stretch begins. -/
theorem handed_one (s : State) (n : Notice) : Handed s [n] (s.handOn n) := ⟨s, NoNotice.refl s, NoNotice.refl _⟩

/-- Notices handed on one after another, and nothing else. -/
theorem handed_all (s : State) (l : List Notice) : Handed s l (s.handOnAll l) := by
  induction l generalizing s with
  | nil => exact NoNotice.refl s
  | cons n rest ih => exact ⟨s, NoNotice.refl s, ih (s.handOn n)⟩

theorem noNotice_setLine (s : State) (n : Nat) (l : Line) : NoNotice s (s.setLine n l) := ⟨rfl, rfl, rfl, rfl, rfl, rfl⟩

theorem noNotice_setOccupancy (s : State) (h : Nat) (o : Occupancy) : NoNotice s (s.setOccupancy h o) := ⟨rfl, rfl, rfl, rfl, rfl, rfl⟩

theorem noNotice_setPlayer (s : State) (n : Nat) (p : Player) : NoNotice s (s.setPlayer n p) := ⟨rfl, rfl, rfl, rfl, rfl, rfl⟩

theorem noNotice_setGroup (s : State) (g : Nat) (x : Group) : NoNotice s (s.setGroup g x) := ⟨rfl, rfl, rfl, rfl, rfl, rfl⟩

theorem noNotice_setTurret (s : State) (u : Nat) (x : Turret) : NoNotice s (s.setTurret u x) := ⟨rfl, rfl, rfl, rfl, rfl, rfl⟩

theorem noNotice_askEach (s : State) (es : List Edit) : NoNotice s (s.askEach es) := ⟨rfl, rfl, rfl, rfl, rfl, rfl⟩

theorem noNotice_reportIdle (s : State) (o : Obj) : NoNotice s (s.reportIdle o) := by
  unfold State.reportIdle; split <;> exact ⟨rfl, rfl, rfl, rfl, rfl, rfl⟩

/-- A burst that is no notice hands on none. -/
theorem noNotice_writeOutbound (s : State) (n : Nat) : NoNotice s (s.writeOutbound n) := by
  unfold State.writeOutbound State.issueWrite State.issue
  split
  · exact ⟨rfl, rfl, rfl, rfl, rfl, by simp [State.noticeBursts, Flight.isNotice]⟩
  · exact ⟨rfl, rfl, rfl, rfl, rfl, rfl⟩

/-- Edits asked one after another: those of one list and then those of another. -/
theorem MixEngine.askEach_append (es fs : List Edit) (m : MixEngine) : m.askEach (es ++ fs) = (m.askEach es).askEach fs := by
  induction es generalizing m with
  | nil => rfl
  | cons e es ih => simp only [List.cons_append, MixEngine.askEach]; split <;> exact ih _

end Sys2Proof.Machine
end

