-- ==== Sys2Proof/Laws/LineEffects.lean ====
section
/-!
SUPPORT. What the line controller's operations do to lines and to the occupancy table, once for each: a change of state, the leave of a
handset, a join, and a far-end fault.
-/

namespace Sys2Proof.Machine

/-- A change of line state changes the line's own record alone: its state, and the counts that start with it (R80, R93, R96). -/
theorem State.moveLine_line (s : State) (n : Nat) (new : LineStatus) (c : Cause) (h : Option Nat) (k : Code) :
    (s.moveLine n new c h k).line = (s.setLine n ((s.lineAt n).moved new)).line := by
  simp only [State.moveLine, Line.moved]
  (repeat' split) <;> simp

theorem State.moveLine_lineAt (s : State) (n j : Nat) (new : LineStatus) (c : Cause) (h : Option Nat) (k : Code) :
    (s.moveLine n new c h k).lineAt j = if j = n then (s.lineAt n).moved new else s.lineAt j := by
  simp only [State.lineAt, State.moveLine_line]
  exact State.setLine_get ..

theorem State.moveLine_occupancy (s : State) (n j : Nat) (new : LineStatus) (c : Cause) (h : Option Nat) (k : Code) :
    (s.moveLine n new c h k).occupancy j = s.occupancy j := by
  simp [State.occupancy]

/-- A change of state that neither starts nor stops a ring leaves the mix engine and the players (R96). -/
theorem State.moveLine_quiet (s : State) (n : Nat) {new : LineStatus} (c : Cause) (h : Option Nat) (k : Code)
    (h1 : (s.lineAt n).status ≠ .inboundRing) (h2 : new ≠ .inboundRing) :
    (s.moveLine n new c h k).mix = s.mix ∧ (s.moveLine n new c h k).ring = s.ring := by
  simp only [State.moveLine, h1, h2, if_false, false_and]
  (repeat' split) <;> simp

/-- A change to a state that keeps the record channel leaves the channel pool (R98). -/
theorem State.moveLine_recorder (s : State) (n : Nat) {new : LineStatus} (c : Cause) (h : Option Nat) (k : Code)
    (h1 : new.freesChannel = false) : (s.moveLine n new c h k).recorder = s.recorder := by
  simp only [State.moveLine, h1, Bool.false_eq_true, if_false]
  (repeat' split) <;> simp

@[simp] theorem Line.moved_same (l : Line) (new : LineStatus) :
    (l.moved new).status = new ∧ (l.moved new).record = l.record ∧ (l.moved new).bank0 = l.bank0 ∧
    (l.moved new).bank1 = l.bank1 ∧ (l.moved new).inbound = l.inbound ∧ (l.moved new).joined = l.joined ∧
    (l.moved new).holdPlaced = l.holdPlaced := ⟨rfl, rfl, rfl, rfl, rfl, rfl, rfl⟩

/-- Removing the hold term, if placed, leaves the line without one (R95). -/
theorem State.dropHold_lineAt (s : State) (n j : Nat) :
    (s.dropHold n).lineAt j = if j = n then { s.lineAt n with holdPlaced := false } else s.lineAt j := by
  simp only [State.dropHold, State.setLine_get]
  rfl

/-- Parking a line leaves it HELD, all else but the hold-placed mark as it was (R90, R95, R97). -/
theorem State.parkLine_lineAt (s : State) (n j : Nat) (c : Cause) (h : Option Nat) :
    ∃ p, (s.parkLine n c h).lineAt j = if j = n then { (s.lineAt n).moved .held with holdPlaced := p } else s.lineAt j := by
  simp only [State.parkLine]
  split
  · exact ⟨(s.lineAt n).holdPlaced, by rw [State.moveLine_lineAt]; rfl⟩
  · split
    · refine ⟨true, ?_⟩
      rw [State.moveLine_lineAt, State.setLine_self, State.setLine_get]
      split <;> rfl
    · exact ⟨(s.lineAt n).holdPlaced, by rw [State.moveLine_lineAt]; rfl⟩

/-- A handset off a line: the joined list loses it, and the state is that of R85; other lines and the line's record, banks and inbound
code stay. -/
theorem State.handsetGone_lineAt (s : State) (n h : Nat) (c : Cause) :
    (∀ j, j ≠ n → (s.handsetGone n h c).lineAt j = s.lineAt j) ∧
    ((s.handsetGone n h c).lineAt n).joined = (s.lineAt n).joined.filter (· != h) ∧
    ((s.handsetGone n h c).lineAt n).status =
      (if (s.lineAt n).joined.filter (· != h) ≠ [] then (s.lineAt n).status else (s.lineAt n).status.left c) ∧
    ((s.handsetGone n h c).lineAt n).record = (s.lineAt n).record ∧
    ((s.handsetGone n h c).lineAt n).inbound = (s.lineAt n).inbound := by
  simp only [State.handsetGone]
  have key : ∀ x : Notice, ((s.setLine n { s.lineAt n with joined := (s.lineAt n).joined.filter (· != h) }).handOn x).lineAt =
      (s.setLine n { s.lineAt n with joined := (s.lineAt n).joined.filter (· != h) }).lineAt := by
    intro x; funext j; simp [State.lineAt]
  split
  · rename_i hr
    simp only [key, State.setLine_get]
    refine ⟨fun j hj => if_neg hj, by simp, by simp, by simp, by simp⟩
  · rename_i hr
    split
    · rename_i hs
      simp only [State.moveLine_lineAt, State.setLine_get]
      refine ⟨fun j hj => by simp [hj], by simp, by simp [hs, LineStatus.left], by simp, by simp⟩
    · rename_i c _ _ hs hc
      obtain ⟨p, hp⟩ := State.parkLine_lineAt (s.setLine n { s.lineAt n with joined := (s.lineAt n).joined.filter (· != h) })
        n n c (some h)
      have hne : LineStatus.left .connected c = .held := by
        cases c <;> first | rfl | exact absurd rfl (hc · )
      refine ⟨fun j hj => ?_, by simp [hp], by rw [hp, if_pos rfl, hs, hne]; rfl, by simp [hp], by simp [hp]⟩
      obtain ⟨p', hp'⟩ := State.parkLine_lineAt
        (s.setLine n { s.lineAt n with joined := (s.lineAt n).joined.filter (· != h) }) n j c (some h)
      rw [hp', if_neg hj, State.setLine_get, if_neg hj]
    · rename_i hs
      simp only [State.moveLine_lineAt, State.setLine_get]
      refine ⟨fun j hj => by simp [hj], by simp, by simp [hs, LineStatus.left], by simp, by simp⟩
    · rename_i hs
      simp only [State.moveLine_lineAt, State.setLine_get]
      refine ⟨fun j hj => by simp [hj], by simp, by simp [hs, LineStatus.left], by simp, by simp⟩
    · rename_i h1 h2 h3 h4
      simp only [key, State.setLine_get]
      refine ⟨fun j hj => if_neg hj, by simp, ?_, by simp, by simp⟩
      simp only [if_true]
      cases hst : (s.lineAt n).status <;> simp_all [LineStatus.left]

theorem State.handsetGone_occupancy (s : State) (n h : Nat) (c : Cause) (j : Nat) :
    (s.handsetGone n h c).occupancy j = s.occupancy j := by
  simp [State.occupancy]

/-- A handset leaves a line altogether: its occupancy becomes NONE, and the line moves as R85 says. -/
theorem State.leaveLine_lineAt (s : State) (n h : Nat) (c : Cause) :
    (∀ j, j ≠ n → (s.leaveLine n h c).lineAt j = s.lineAt j) ∧
    ((s.leaveLine n h c).lineAt n).joined = (s.lineAt n).joined.filter (· != h) ∧
    ((s.leaveLine n h c).lineAt n).status =
      (if (s.lineAt n).joined.filter (· != h) ≠ [] then (s.lineAt n).status else (s.lineAt n).status.left c) ∧
    ((s.leaveLine n h c).lineAt n).record = (s.lineAt n).record ∧
    ((s.leaveLine n h c).lineAt n).inbound = (s.lineAt n).inbound :=
  State.handsetGone_lineAt ((s.askEach (leaveEdits s n h)).setOccupancy h .vacant) n h c

theorem State.leaveLine_occupancy (s : State) (n h : Nat) (c : Cause) (j : Nat) :
    (s.leaveLine n h c).occupancy j = if j = h then .vacant else s.occupancy j := by
  rw [State.leaveLine, State.handsetGone_occupancy, State.setOccupancy_get]; rfl

/-- A join: the handset's occupancy is the line, it is last on the joined list, and the line's state is that of R89. -/
theorem State.joinLine_lineAt (s : State) (n h j : Nat) :
    (s.joinLine n h).lineAt j =
      if j = n then
        let l : Line := { s.lineAt n with
          joined := (s.lineAt n).joined ++ [h], holdPlaced := (s.lineAt n).holdPlaced && (s.lineAt n).status != .held }
        if (s.lineAt n).status.keyed = (s.lineAt n).status then l else l.moved (s.lineAt n).status.keyed
      else s.lineAt j := by
  have key : ∀ (x : State) (v : Notice), (x.handOn v).lineAt j = x.lineAt j := by intro x v; simp [State.lineAt]
  have hocc : ∀ o, (s.setOccupancy h o).lineAt j = s.lineAt j := fun o => rfl
  simp only [State.joinLine]
  split
  · rename_i he
    rw [key, State.setLine_get]
    split <;> rfl
  · rename_i he
    rw [State.moveLine_lineAt, State.setLine_self, State.setLine_get]
    split <;> rfl

theorem State.joinLine_occupancy (s : State) (n h j : Nat) :
    (s.joinLine n h).occupancy j = if j = h then .line n else s.occupancy j := by
  simp only [State.joinLine]
  split
  · have : ∀ (x : State) (v : Notice), (x.handOn v).occupancy j = x.occupancy j := by intro x v; simp [State.occupancy]
    rw [this]
    exact State.setOccupancy_get ..
  · rw [State.moveLine_occupancy]
    exact State.setOccupancy_get ..

/-- A far-end FAULT sends the handsets of a list away: the line keeps its state and loses them, and they are vacant (R83). -/
theorem State.faultHandsets_spec (l : List Nat) (s : State) (n : Nat) :
    (∀ j, j ≠ n → (s.faultHandsets n l).lineAt j = s.lineAt j) ∧
    (s.faultHandsets n l).lineAt n =
      { s.lineAt n with joined := (s.lineAt n).joined.filter fun h => !l.contains h } ∧
    ∀ h, (s.faultHandsets n l).occupancy h = if h ∈ l then .vacant else s.occupancy h := by
  induction l generalizing s with
  | nil => simp [State.faultHandsets]
  | cons a l ih =>
    obtain ⟨i1, i2, i3⟩ := ih ((((s.askEach (leaveEdits s n a)).setOccupancy a .vacant).setLine n
      { s.lineAt n with joined := (s.lineAt n).joined.filter (· != a) }).handOn
        (lineNotice (((s.askEach (leaveEdits s n a)).setOccupancy a .vacant).setLine n
          { s.lineAt n with joined := (s.lineAt n).joined.filter (· != a) }) n (s.lineAt n).status (s.lineAt n).status .farFault
          (some a) .done))
    have key : ∀ (x : State) (v : Notice) j, (x.handOn v).lineAt j = x.lineAt j := by intro x v j; simp [State.lineAt]
    have keyo : ∀ (x : State) (v : Notice) j, (x.handOn v).occupancy j = x.occupancy j := by
      intro x v j; simp [State.occupancy]
    refine ⟨?_, ?_, ?_⟩
    · intro j hj
      refine (i1 j hj).trans ?_
      rw [key, State.setLine_get, if_neg hj]; rfl
    · refine i2.trans ?_
      rw [key, State.setLine_self]
      simp only [List.filter_filter, Line.mk.injEq, true_and, and_true]
      refine List.filter_congr fun x _ => ?_
      by_cases hxa : x = a <;> simp [hxa]
    · intro h
      refine (i3 h).trans ?_
      rw [keyo]
      have : ((((s.askEach (leaveEdits s n a)).setOccupancy a .vacant).setLine n
        { s.lineAt n with joined := (s.lineAt n).joined.filter (· != a) }).occupancy h) =
          if h = a then .vacant else s.occupancy h := State.setOccupancy_get ..
      rw [this]
      by_cases h1 : h ∈ l <;> by_cases h2 : h = a <;> simp [h1, h2]

/-- A FAULT's leaves empty the joined list (R83). -/
theorem State.faultHandsets_all (s : State) (n : Nat) :
    (s.faultHandsets n (s.lineAt n).joined).lineAt n = { s.lineAt n with joined := [] } := by
  rw [(State.faultHandsets_spec _ s n).2.1]
  simp [List.filter_eq_nil_iff]

/-- A far-end signal on a line that holds its code already moves that line alone, as R81, R82 and R83 say. -/
theorem State.farSignal_lineAt (s : State) (n : Nat) (code : Signal) (hc : (s.lineAt n).inbound = code) :
    (s.farSignal n code).lineAt n = (s.lineAt n).farMoved code ∧
    ∀ j, j ≠ n → (s.farSignal n code).lineAt j = s.lineAt j := by
  cases code <;> cases hs : (s.lineAt n).status <;>
    simp +contextual [State.farSignal, hs, State.moveLine_lineAt, State.dropHold_lineAt, State.faultHandsets_all,
      (State.faultHandsets_spec _ s n).1, Line.moved, Line.farMoved, LineStatus.signalled] <;>
    generalize s.lineAt n = l at * <;> cases l <;> simp_all

/-- What a write of an inbound signal cell does to the lines (R76, R81, R82, R83). -/
theorem State.takeInbound_lineAt (s : State) (n j : Nat) (d : Burst) (code : Signal)
    (h : code = (Signal.list[field d 0 1]?).getD .fault) :
    (s.takeInbound n d).lineAt j =
      if j = n ∧ (s.lineAt n).inbound ≠ code then
        if (s.lineAt n).record.enabled then (s.lineAt n).farMoved code else { s.lineAt n with inbound := code }
      else s.lineAt j := by
  simp only [State.takeInbound, ← h]
  by_cases hc : (s.lineAt n).inbound = code
  · simp [hc]
  · have hx : ∀ x : Line, x.inbound = code →
        ((s.setLine n x).farSignal n code).lineAt j = if j = n then x.farMoved code else s.lineAt j := by
      intro x hx
      obtain ⟨hn, ho⟩ := State.farSignal_lineAt (s.setLine n x) n code (by simpa using hx)
      by_cases hj : j = n
      · simp [hj, hn]
      · simp [hj, ho j hj, State.setLine_get]
    by_cases he : (s.lineAt n).record.enabled = true
    · simp [hc, he, hx, Line.farMoved]
    · simp [hc, he, State.setLine_get]

end Sys2Proof.Machine
end

