-- ==== Sys2Proof/Laws/MixBounds.lean ====
section
/-!
SUPPORT. What one edit of the mix engine does to the occupancy and the lists it counts (R55 to R59), and what a close and a floor
restart do to them (R57, R71).
-/

namespace Sys2Proof.Machine

/-- The first element changed to one that a test leaves out is the first element left out. -/
theorem filter_changeFirst {α : Type} (p q : α → Bool) (f : α → α) (hpq : ∀ x, p x = true → q x = true) (hf : ∀ x, q (f x) = false)
    (l : List α) : (changeFirst p f l).filter q = (l.filter q).eraseP p := by
  induction l with
  | nil => rfl
  | cons x l ih =>
    by_cases hp : p x = true
    · simp [changeFirst, hp, hpq x hp, hf]
    · by_cases hq : q x = true <;> simp [changeFirst, hp, hq, ih]

/-- The same at the end of a list. -/
theorem filter_changeLast {α : Type} (p q : α → Bool) (f : α → α) (hpq : ∀ x, p x = true → q x = true) (hf : ∀ x, q (f x) = false)
    (l : List α) : (changeLast p f l).filter q = dropLastWhere p (l.filter q) := by
  simp only [changeLast, dropLastWhere, List.filter_reverse, filter_changeFirst p q f hpq hf]

/-- Taking out the last element that satisfies a test leaves a sublist, one shorter where there is one. -/
theorem dropLastWhere_spec {α : Type} (p : α → Bool) (l : List α) :
    (dropLastWhere p l).Sublist l ∧ (l.any p = true → (dropLastWhere p l).length + 1 = l.length) := by
  constructor
  · have := (List.eraseP_sublist (p := p) (l := l.reverse)).reverse
    rwa [List.reverse_reverse] at this
  · intro h
    obtain ⟨a, ha, hp⟩ := List.any_eq_true.mp h
    have h1 := List.length_eraseP_of_mem (List.mem_reverse.mpr ha) hp
    have h2 : 0 < l.length := List.length_pos_of_mem ha
    simp only [dropLastWhere, List.length_reverse] at h1 ⊢
    omega

/-- Changing one element keeps what the change keeps. -/
theorem map_changeLast {α β : Type} (p : α → Bool) (f : α → α) (g : α → β) (hg : ∀ x, g (f x) = g x) (l : List α) :
    (changeLast p f l).map g = l.map g := by
  have h : ∀ l : List α, (changeFirst p f l).map g = l.map g := fun l => by
    induction l with
    | nil => rfl
    | cons x l ih => by_cases hp : p x = true <;> simp [changeFirst, hp, hg, ih]
  simp [changeLast, List.map_reverse, h]

/-- An accepted term addition (R55): one term more after the edits, at most 12, the recipe in force as it was. -/
theorem Slot.add_spec {x y : Slot} {t : Term} {o : Origin} {b : Bool} (h : x.add t o b = .ok y) :
    y.occupancy = x.occupancy + 1 ∧ y.occupancy ≤ 12 ∧ y.terms = x.terms ∧ y.planned = x.planned ∧ y.enabled = x.enabled ∧
      y.volume = x.volume := by
  simp only [Slot.add] at h
  split at h
  · cases h
    simp only [Slot.occupancy, Slot.dynOccupancy, Slot.terms, List.length_append, List.length_singleton] at *
    exact ⟨by omega, by omega, trivial, trivial, trivial, trivial⟩
  · cases h

/-- An accepted term removal (R56): one term less after the edits, the recipe in force as it was. -/
theorem Slot.drop_spec {x y : Slot} {t : Term} {o : Origin} (h : x.drop t o = .ok y) :
    y.occupancy + 1 = x.occupancy ∧ y.terms = x.terms ∧ y.planned = x.planned ∧ y.enabled = x.enabled ∧ y.volume = x.volume := by
  simp only [Slot.drop] at h
  split at h
  · rename_i ha
    cases h
    have := (dropLastWhere_spec _ _).2 ha
    simp only [Slot.occupancy, Slot.dynOccupancy, Slot.terms]
    exact ⟨by omega, trivial, trivial, trivial, trivial⟩
  · split at h
    · rename_i hd
      cases h
      have h1 := filter_changeLast (fun d : DynTerm => d.term == t && d.origin == o && d.stays) DynTerm.stays
        (fun d => { d with mark := .remove }) (fun d hd => by simp only [Bool.and_eq_true] at hd; exact hd.2) (fun _ => rfl)
        x.dynamic
      have h2 : (x.dynamic.filter DynTerm.stays).any (fun d => d.term == t && d.origin == o && d.stays) = true := by
        obtain ⟨d, hm, hp⟩ := List.any_eq_true.mp hd
        exact List.any_eq_true.mpr ⟨d, List.mem_filter.mpr ⟨hm, by simp only [Bool.and_eq_true] at hp; exact hp.2⟩, hp⟩
      have h3 := (dropLastWhere_spec _ _).2 h2
      have h4 := map_changeLast (fun d : DynTerm => d.term == t && d.origin == o && d.stays) (fun d => { d with mark := .remove })
        DynTerm.term (fun _ => rfl) x.dynamic
      simp only [Slot.occupancy, Slot.dynOccupancy, Slot.terms, h1, h4]
      refine ⟨?_, trivial, trivial, trivial, trivial⟩
      omega
    · cases h

/-- A close's edits keep the occupancy, and the terms in force are then as many (R57). -/
theorem Slot.applyEdits_spec (x : Slot) :
    x.applyEdits.occupancy = x.occupancy ∧ x.applyEdits.terms.length = x.occupancy ∧ x.applyEdits.planned = x.planned := by
  have : (x.dynamic.filter DynTerm.stays).filter DynTerm.stays = x.dynamic.filter DynTerm.stays := by simp
  have h2 : (x.adds.map TermAdd.applied).filter DynTerm.stays = x.adds.map TermAdd.applied :=
    List.filter_eq_self.mpr fun d hd => by obtain ⟨a, -, rfl⟩ := List.mem_map.mp hd; rfl
  simp only [Slot.applyEdits, Slot.occupancy, Slot.dynOccupancy, Slot.terms, List.filter_append, this, h2, List.length_append,
    List.length_map, List.length_nil, Nat.add_zero]
  exact ⟨trivial, trivial, trivial⟩

/-- A floor restart lowers the occupancy, and the terms in force are then as many (R71). -/
theorem Slot.restart_spec (x : Slot) :
    x.restart.occupancy ≤ x.occupancy ∧ x.restart.terms.length = x.restart.occupancy ∧ x.restart.planned = x.planned := by
  have h1 : (x.dynamic.filter DynTerm.survives).filter DynTerm.stays = x.dynamic.filter DynTerm.survives :=
    List.filter_eq_self.mpr fun d hd => by
      have := (List.mem_filter.mp hd).2; simp only [DynTerm.survives, Bool.and_eq_true] at this; exact this.2
  have h2 : ((x.adds.filter (·.byRecord)).map TermAdd.applied).filter DynTerm.stays = (x.adds.filter (·.byRecord)).map TermAdd.applied :=
    List.filter_eq_self.mpr fun d hd => by obtain ⟨a, -, rfl⟩ := List.mem_map.mp hd; rfl
  have h3 : (x.dynamic.filter DynTerm.survives).length ≤ (x.dynamic.filter DynTerm.stays).length := by
    have : x.dynamic.filter DynTerm.survives = (x.dynamic.filter DynTerm.stays).filter (·.byRecord) := by
      rw [List.filter_filter]; rfl
    rw [this]; exact List.length_filter_le ..
  have h4 := List.length_filter_le (fun a : TermAdd => a.byRecord) x.adds
  simp only [Slot.restart, Slot.occupancy, Slot.dynOccupancy, Slot.terms, List.filter_append, h1, h2, List.length_append,
    List.length_map, List.length_nil]
  exact ⟨by omega, by omega, trivial⟩

/-- An accepted contributor addition (R59): it is last after the edits, its source was not there, the limit holds, and the list in
force is as it was. -/
theorem Bus.add_spec {b : Nat} {x y : Bus} {c : Contributor} {r : Bool} (h : Bus.add b x c r = .ok y) :
    y.after = x.after ++ [c] ∧ x.has c.source = false ∧ y.occupancy ≤ busLimit b ∧ y.inForce = x.inForce := by
  simp only [Bus.add] at h
  split at h
  · cases h
  · split at h
    · cases h
    · rename_i h1 h2
      cases h
      simp only [Bus.after, Bus.occupancy, Bus.inForce, List.map_append, List.map_cons, List.map_nil, List.length_append,
        List.length_singleton, ← List.append_assoc] at *
      exact ⟨trivial, by simpa using h2, by omega, trivial⟩

/-- An accepted contributor removal (R59): what stays after the edits was there before, and the list in force is as it was. -/
theorem Bus.drop_spec {x y : Bus} {i : Nat} (h : x.drop i = .ok y) : y.after.Sublist x.after ∧ y.inForce = x.inForce := by
  simp only [Bus.drop] at h
  split at h
  · cases h
    exact ⟨List.Sublist.append (List.Sublist.refl _) ((dropLastWhere_spec _ _).1.map _), rfl⟩
  · split at h
    · cases h
      have h1 := filter_changeLast (fun e : BusEntry => e.contrib.source == i && e.stays) BusEntry.stays
        (fun e => { e with mark := .remove }) (fun e he => by simp only [Bool.and_eq_true] at he; exact he.2) (fun _ => rfl) x.list
      have h2 := map_changeLast (fun e : BusEntry => e.contrib.source == i && e.stays) (fun e => { e with mark := .remove })
        BusEntry.contrib (fun _ => rfl) x.list
      refine ⟨?_, h2⟩
      simp only [Bus.after, h1]
      exact List.Sublist.append ((dropLastWhere_spec _ _).1.map _) (List.Sublist.refl _)
    · cases h

/-- After a close's edits the list in force is what the edits left (R59). -/
theorem Bus.applyEdits_spec (x : Bus) : x.applyEdits.after = x.after ∧ x.applyEdits.inForce = x.after := by
  have h2 : (x.adds.map BusAdd.applied).filter BusEntry.stays = x.adds.map BusAdd.applied :=
    List.filter_eq_self.mpr fun d hd => by obtain ⟨a, -, rfl⟩ := List.mem_map.mp hd; rfl
  constructor
  · simp [Bus.applyEdits, Bus.after, List.filter_append, h2, BusAdd.applied, Function.comp_def]
  · exact Bus.inForce_applyEdits x

/-- After a floor restart the list in force is a part of what the edits left, and nothing is pending (R71). -/
theorem Bus.restart_spec (x : Bus) : x.restart.after = x.restart.inForce ∧ x.restart.inForce.Sublist x.after := by
  have h1 : x.restart.list.filter BusEntry.stays = x.restart.list :=
    List.filter_eq_self.mpr fun e he => by simp [BusEntry.stays, (x.restart_byRecord.1 e he).2]
  constructor
  · simp only [Bus.after, h1, Bus.inForce, x.restart_byRecord.2, List.map_nil, List.append_nil]
  · rw [Bus.inForce_restart]
    have h3 : x.list.filter BusEntry.survives = (x.list.filter BusEntry.stays).filter (·.byRecord) := by
      rw [List.filter_filter]; rfl
    rw [h3]
    exact List.Sublist.append ((List.filter_sublist).map _) ((List.filter_sublist).map _)

end Sys2Proof.Machine
end

