-- ==== Sys2Proof/Laws/PerInstr.lean ====
section
/-!
SUPPORT. What is said of every command, constructor by constructor: the place that a command's operands name in the floor region is
aligned to a burst, inside the region, and in the area whose commands it belongs to (R6, R76, R153, R161, R164, R173, R182, R193).
-/

namespace Sys2Proof.Laws

open Sys2Proof.Machine

/-- The floor offset that a command's operands name, with the area it has to lie in; none for a command that names a whole address, or
no place at all. -/
def Placement.place : Instr → Option (Nat × Area)
  | .talkWrite _ view place _ | .gatherBurst _ view place _ | .homeRead _ view place => some (view * 16384 + place * 32, .views)
  | .listenRead _ view place => some (view * 16384 + 8192 + place * 32, .views)
  | .sourceHomeWrite _ source position _ _ _ => some (homeOffset source position, .home source)
  | .inboundSignalWrite _ line _ => some (inboundOffset line, .cell (.inbound line))
  | .lineKey h .. | .lineRelease h .. | .lineHold h .. | .groupJoin h .. | .groupLeave h .. | .talkKey h .. | .talkUnkey h ..
  | .setTime h _ | .levelSnapshot h | .stateImage h | .clearCounts h | .floorRestart h =>
    some (requestOffset h.cell, .cell (.request h.cell))
  | .badRequest _ cell _ => some (requestOffset cell, .cell (.request cell))
  | .recordConsumerWrite .. => some (recordConsumerOffset, .cell .recordConsumer)
  | .noticeConsumerWrite _ ring _ => some (noticeConsumerOffset ring, .cell (.noticeConsumer ring))
  | .planWrite _ record _ | .planPartialWrite _ record _ _ _ => some (planOffset record, .plan record)
  | .resetAssert | .resetRelease .. | .frameClose _ | .clockLost | .secondStrobe | .forwardedBurst _ | .burstAnsweredError ..
  | .partialCellWrite .. | .homeWriteAnswered .. | .homeReadAnswered .. | .listenReadComplete _ | .memoryFault _ | .recordPlace
  | .recordProgressWrite | .noticeProgressWrite .. | .levelImageDone | .stateImageDone | .turretLost _ | .ringLimit _
  | .releaseTimeout _ | .keyTimeout .. | .guardOn _ | .cadenceStepEnd _ | .hangExpiry _ => none

/-- The place that a command names is aligned to 32 bytes, in the 16 MiB of the floor region, and in its area. -/
def Placement.Statement (i : Instr) : Prop :=
  match Placement.place i with
  | some (o, a) => o % 32 = 0 ∧ o < 2 ^ 24 ∧ areaOf o = a
  | none => True

theorem talk_placed (view : Fin 32) (place : Fin 256) :
    (view.val * 16384 + place.val * 32) % 32 = 0 ∧ view.val * 16384 + place.val * 32 < 2 ^ 24 ∧
      areaOf (view.val * 16384 + place.val * 32) = .views :=
  ⟨by omega, by omega, areaOf_views (by omega)⟩

theorem listen_placed (view : Fin 32) (place : Fin 256) :
    (view.val * 16384 + 8192 + place.val * 32) % 32 = 0 ∧ view.val * 16384 + 8192 + place.val * 32 < 2 ^ 24 ∧
      areaOf (view.val * 16384 + 8192 + place.val * 32) = .views :=
  ⟨by omega, by omega, areaOf_views (by omega)⟩

theorem request_placed (cell : Fin 256) :
    requestOffset cell % 32 = 0 ∧ requestOffset cell < 2 ^ 24 ∧ areaOf (requestOffset cell) = .cell (.request cell) :=
  ⟨by simp only [requestOffset]; omega, requestOffset_lt cell.isLt, areaOf_request cell.isLt⟩

theorem plan_placed (record : Fin 2048) :
    planOffset record % 32 = 0 ∧ planOffset record < 2 ^ 24 ∧ areaOf (planOffset record) = .plan record :=
  ⟨by simp only [planOffset]; omega, planOffset_lt record.isLt, areaOf_plan record.isLt⟩

theorem Placement.resetAssert : Placement.Statement .resetAssert :=
  trivial

theorem Placement.resetRelease (_base : BitVec 8) (_decodeEn : Bool) : Placement.Statement (.resetRelease _base _decodeEn) :=
  trivial

theorem Placement.frameClose (_order : CloseOrder) : Placement.Statement (.frameClose _order) :=
  trivial

theorem Placement.clockLost : Placement.Statement .clockLost :=
  trivial

theorem Placement.secondStrobe : Placement.Statement .secondStrobe :=
  trivial

theorem Placement.forwardedBurst (_event : ForwardEvent) : Placement.Statement (.forwardedBurst _event) :=
  trivial

theorem Placement.burstAnsweredError (_m : Master) (_addr : BitVec 32) (_op : BurstOp) :
    Placement.Statement (.burstAnsweredError _m _addr _op) :=
  trivial

theorem Placement.talkWrite (_m : Master) (view : Fin 32) (place : Fin 256) (_data : Burst) :
    Placement.Statement (.talkWrite _m view place _data) :=
  talk_placed view place

theorem Placement.gatherBurst (_m : Master) (view : Fin 32) (place : Fin 256) (_data : Burst) :
    Placement.Statement (.gatherBurst _m view place _data) :=
  talk_placed view place

theorem Placement.homeRead (_m : Master) (view : Fin 32) (place : Fin 256) : Placement.Statement (.homeRead _m view place) :=
  talk_placed view place

theorem Placement.listenRead (_m : Master) (view : Fin 32) (place : Fin 256) : Placement.Statement (.listenRead _m view place) :=
  listen_placed view place

theorem Placement.sourceHomeWrite (_m : Master) (source : Fin 384) (position : Fin 8) (_data : Burst) (_enables : Enables) (_ans : MemAnswer) :
    Placement.Statement (.sourceHomeWrite _m source position _data _enables _ans) :=
  ⟨by simp only [homeOffset]; omega, homeOffset_lt source.isLt position.isLt, areaOf_home source.isLt position.isLt⟩

theorem Placement.inboundSignalWrite (_m : Master) (line : Fin 128) (_data : Burst) :
    Placement.Statement (.inboundSignalWrite _m line _data) :=
  ⟨by simp only [inboundOffset]; omega, inboundOffset_lt line.isLt, areaOf_inbound line.isLt⟩

theorem Placement.partialCellWrite (_m : Master) (_addr : BitVec 32) (_data : Burst) (_enables : Enables) (_ans : MemAnswer) :
    Placement.Statement (.partialCellWrite _m _addr _data _enables _ans) :=
  trivial

theorem Placement.lineKey (head : RequestHead) (_turret _handset : BitVec 8) (_line : BitVec 16) :
    Placement.Statement (.lineKey head _turret _handset _line) :=
  request_placed head.cell

theorem Placement.lineRelease (head : RequestHead) (_turret _handset : BitVec 8) (_line : BitVec 16) :
    Placement.Statement (.lineRelease head _turret _handset _line) :=
  request_placed head.cell

theorem Placement.lineHold (head : RequestHead) (_turret _handset : BitVec 8) (_line : BitVec 16) :
    Placement.Statement (.lineHold head _turret _handset _line) :=
  request_placed head.cell

theorem Placement.groupJoin (head : RequestHead) (_turret _group _attach _talkCap : BitVec 8) (_listenSlot _listenGain _talkGain : BitVec 16) :
    Placement.Statement (.groupJoin head _turret _group _attach _talkCap _listenSlot _listenGain _talkGain) :=
  request_placed head.cell

theorem Placement.groupLeave (head : RequestHead) (_turret _group : BitVec 8) :
    Placement.Statement (.groupLeave head _turret _group) :=
  request_placed head.cell

theorem Placement.talkKey (head : RequestHead) (_turret _group : BitVec 8) : Placement.Statement (.talkKey head _turret _group) :=
  request_placed head.cell

theorem Placement.talkUnkey (head : RequestHead) (_turret _group : BitVec 8) :
    Placement.Statement (.talkUnkey head _turret _group) :=
  request_placed head.cell

theorem Placement.setTime (head : RequestHead) (_seconds : BitVec 32) : Placement.Statement (.setTime head _seconds) :=
  request_placed head.cell

theorem Placement.levelSnapshot (head : RequestHead) : Placement.Statement (.levelSnapshot head) :=
  request_placed head.cell

theorem Placement.stateImage (head : RequestHead) : Placement.Statement (.stateImage head) :=
  request_placed head.cell

theorem Placement.clearCounts (head : RequestHead) : Placement.Statement (.clearCounts head) :=
  request_placed head.cell

theorem Placement.floorRestart (head : RequestHead) : Placement.Statement (.floorRestart head) :=
  request_placed head.cell

theorem Placement.badRequest (_m : Master) (cell : Fin 256) (_data : Burst) : Placement.Statement (.badRequest _m cell _data) :=
  request_placed cell

theorem Placement.recordConsumerWrite (_m : Master) (_data : Burst) : Placement.Statement (.recordConsumerWrite _m _data) :=
  ⟨by decide, by decide, areaOf_recordConsumer⟩

theorem Placement.noticeConsumerWrite (_m : Master) (ring : Fin 4) (_data : Burst) :
    Placement.Statement (.noticeConsumerWrite _m ring _data) :=
  ⟨by simp only [noticeConsumerOffset]; omega, noticeConsumerOffset_lt ring.isLt, areaOf_noticeConsumer ring.isLt⟩

theorem Placement.planWrite (_m : Master) (record : Fin 2048) (_data : Burst) :
    Placement.Statement (.planWrite _m record _data) :=
  plan_placed record

theorem Placement.planPartialWrite (_m : Master) (record : Fin 2048) (_data : Burst) (_enables : Enables) (_ans : MemAnswer) :
    Placement.Statement (.planPartialWrite _m record _data _enables _ans) :=
  plan_placed record

theorem Placement.homeWriteAnswered (_n : Nat) (_ok : Bool) : Placement.Statement (.homeWriteAnswered _n _ok) :=
  trivial

theorem Placement.homeReadAnswered (_n : Nat) (_ok : Bool) : Placement.Statement (.homeReadAnswered _n _ok) :=
  trivial

theorem Placement.listenReadComplete (_n : Nat) : Placement.Statement (.listenReadComplete _n) :=
  trivial

theorem Placement.memoryFault (_n : Nat) : Placement.Statement (.memoryFault _n) :=
  trivial

theorem Placement.recordPlace : Placement.Statement .recordPlace :=
  trivial

theorem Placement.recordProgressWrite : Placement.Statement .recordProgressWrite :=
  trivial

theorem Placement.noticeProgressWrite (_ring : Fin 4) (_index : Nat) : Placement.Statement (.noticeProgressWrite _ring _index) :=
  trivial

theorem Placement.levelImageDone : Placement.Statement .levelImageDone :=
  trivial

theorem Placement.stateImageDone : Placement.Statement .stateImageDone :=
  trivial

theorem Placement.turretLost (_turret : Fin 64) : Placement.Statement (.turretLost _turret) :=
  trivial

theorem Placement.ringLimit (_line : Fin 128) : Placement.Statement (.ringLimit _line) :=
  trivial

theorem Placement.releaseTimeout (_line : Fin 128) : Placement.Statement (.releaseTimeout _line) :=
  trivial

theorem Placement.keyTimeout (_group : Fin 32) (_turret : Fin 64) : Placement.Statement (.keyTimeout _group _turret) :=
  trivial

theorem Placement.guardOn (_source : Fin 384) : Placement.Statement (.guardOn _source) :=
  trivial

theorem Placement.cadenceStepEnd (_player : Fin 128) : Placement.Statement (.cadenceStepEnd _player) :=
  trivial

theorem Placement.hangExpiry (_source : Fin 384) : Placement.Statement (.hangExpiry _source) :=
  trivial

end Sys2Proof.Laws
end

