-- ==== Sys2Proof/Laws/Views.lean ====
section
/-!
SUPPORT. Bursts to the views area: what an address of a view comes to (R6), and that the work of an arrival only adds to the part's own
bursts.
-/

namespace Sys2Proof.Machine

/-- The view, half and place of a talk-half offset. -/
theorem talk_offset {v p : Nat} (hp : p < 256) :
    (v * 16384 + p * 32) / 16384 = v ∧ (v * 16384 + p * 32) % 16384 < 8192 ∧ (v * 16384 + p * 32) % 8192 = p * 32 := by
  refine ⟨by omega, by omega, by omega⟩

/-- The view, half and place of a listen-half offset. -/
theorem listen_offset {v p : Nat} (hp : p < 256) :
    (v * 16384 + 8192 + p * 32) / 16384 = v ∧ ¬ (v * 16384 + 8192 + p * 32) % 16384 < 8192 ∧
      (v * 16384 + 8192 + p * 32) % 8192 = p * 32 := by
  refine ⟨by omega, by omega, by omega⟩

/-- A burst to a place inside the channels of an enabled view's talk half (R6). -/
theorem State.takeBurst_talk {s : State} {m : Nat} {view : Fin 32} {place : Fin 256} (hr : s.Room m) (op : BurstOp)
    (he : (s.view view).record.enabled = true) (hc : place.val / 8 < (s.view view).record.channels) :
    s.ready.takeBurst m (s.talkAddress view place) op = s.ready.talkHalf m view (place * 32) op := by
  have h1 := view.isLt
  obtain ⟨a1, a2, a3⟩ := talk_offset (v := view) place.isLt
  rw [State.talkAddress, show s.path.address = s.ready.path.address from rfl,
    State.takeBurst_inside (s := s.ready) hr.1 hr.2 (by omega)]
  unfold State.takeInside
  rw [areaOf_views (by omega)]
  simp only [State.viewBurst, a1, a3]
  rw [show s.ready.view view = s.view view from rfl, he, if_neg (by simp), if_pos a2, if_pos (by omega)]

/-- A read of a place inside the channels of an enabled view's listen half (R6, R10). -/
theorem State.takeBurst_listen {s : State} {m : Nat} {view : Fin 32} {place : Fin 256} (hr : s.Room m)
    (he : (s.view view).record.enabled = true) (hc : place.val < (s.view view).record.channels) :
    s.ready.takeBurst m (s.listenAddress view place) .read =
      s.ready.listenRead m ((s.view view).record.listenBase + place) (s.view view).record.order := by
  have h1 := view.isLt
  obtain ⟨a1, a2, a3⟩ := listen_offset (v := view) place.isLt
  rw [State.listenAddress, show s.path.address = s.ready.path.address from rfl,
    State.takeBurst_inside (s := s.ready) hr.1 hr.2 (by omega)]
  unfold State.takeInside
  rw [areaOf_views (by omega)]
  simp only [State.viewBurst, a1, a3]
  rw [show s.ready.view view = s.view view from rfl, he, if_neg (by simp), if_neg a2, if_pos (by omega)]
  congr 2; omega

/-! ### The part's own bursts only grow -/

theorem State.issue_grows (s : State) (o : Owner) (a : Nat) (op : BurstOp) :
    s.path.ownWait <+: (s.issue o a op).path.ownWait := by
  simp only [State.issue]; split <;> simp

theorem State.writeNotice_grows (s : State) (k : Nat) (n : Notice) :
    s.path.ownWait <+: (s.writeNotice k n).path.ownWait := by
  simp only [State.writeNotice, State.setRing_frame]; exact State.issue_grows ..

theorem State.handOnTo_grows (s : State) (k : Nat) (n : Notice) : s.path.ownWait <+: (s.handOnTo k n).path.ownWait := by
  simp only [State.handOnTo]
  split
  · split
    · have h1 := s.writeNotice_grows k (resyncOf s k)
      have h2 := ((s.writeNotice k (resyncOf s k)).clearMark k).writeNotice_grows k n
      simp only [State.clearMark_frame] at h2
      exact h1.trans h2
    · simp
  · split
    · exact s.writeNotice_grows k n
    · simp

theorem State.handOn_grows (s : State) (n : Notice) : s.path.ownWait <+: (s.handOn n).path.ownWait := s.handOnTo_grows _ n

theorem State.askRinger_grows (s : State) (n t : Nat) (c : Option Cause) :
    s.path.ownWait <+: (s.askRinger n t c).path.ownWait := by
  simp only [State.askRinger]; split
  · simp
  · exact s.handOn_grows _

theorem State.returnRingers_grows (s : State) (t : Nat) (l : List Nat) :
    s.path.ownWait <+: (s.returnRingers t l).path.ownWait := by
  induction l generalizing s with
  | nil => exact List.prefix_refl _
  | cons n l ih =>
    simp only [State.returnRingers]; split
    · exact (s.askRinger_grows ..).trans (ih _)
    · exact ih _

theorem State.hearTurret_grows (s : State) (t : Nat) : s.path.ownWait <+: (s.hearTurret t).path.ownWait := by
  simp only [State.hearTurret]; split
  · simp
  · refine List.IsPrefix.trans ?_ (State.returnRingers_grows ..)
    refine List.IsPrefix.trans ?_ (State.handOn_grows ..)
    simp

theorem State.hearTurrets_grows (s : State) (i : Nat) (l : List Nat) :
    s.path.ownWait <+: (s.hearTurrets i l).path.ownWait := by
  induction l generalizing s with
  | nil => exact List.prefix_refl _
  | cons t l ih =>
    simp only [State.hearTurrets]; split
    · exact (s.hearTurret_grows t).trans (ih _)
    · exact ih _

/-! ### The selection cache -/

/-- What the mix of a slot fixes reads only the sources, the recipes and buses, the players and the groups (R65). -/
theorem slotWork_congr {s t : State} (h1 : t.src = s.src) (h2 : t.mix.slots = s.mix.slots) (h3 : t.mix.buses = s.mix.buses)
    (h4 : t.ring = s.ring) (h5 : t.group = s.group) (u : Nat) : slotWork t u = slotWork s u := by
  have k1 : ∀ i, t.source i = s.source i := by intro i; simp only [State.source, h1]
  have k2 : ∀ i, t.bus i = s.bus i := by intro i; simp only [State.bus, h3]
  have k3 : ∀ i, t.groupAt i = s.groupAt i := by intro i; simp only [State.groupAt, h5]
  have k4 : ∀ i, t.player i = s.player i := by intro i; simp only [State.player, h4]
  have k5 : t.slot u = s.slot u := by simp only [State.slot, h2]
  have e0 : ranksBefore t = ranksBefore s := by funext a b; simp only [ranksBefore, k1]
  have e1 : ∀ (a : Contributor) l, rankIn t a l = rankIn s a l := by
    intro a l
    induction l with
    | nil => rfl
    | cons d ds ih => simp only [rankIn, e0, ih]
  have e2 : ∀ l, ranked t l = ranked s l := by
    intro l
    induction l with
    | nil => rfl
    | cons d ds ih =>
      simp only [ranked, List.foldr_cons] at ih ⊢
      rw [ih, e1]
  have e3 : ∀ g, permitted t g = permitted s g := by intro g; funext c; simp only [permitted, k1, k3]
  have e4 : ∀ b, countedPairs t b = countedPairs s b := by
    intro b
    simp only [countedPairs, counted, selection, e2, e3, k2, k3]
  have e5 : fixTerm t = fixTerm s := by
    funext x
    simp only [fixTerm, e4, k4]
  simp only [slotWork, e5, k5]

/-- A need of selections changes the selection cache alone (R51). -/
theorem State.cacheSlot_eq (s : State) (u : Nat) : ∃ c, s.cacheSlot u = { s with mix.cache := c } := by
  have h1 : ∀ (s : State) b, ∃ c, s.cacheSelection b = { s with mix.cache := c } := by
    intro s b
    simp only [State.cacheSelection]; split
    · exact ⟨s.mix.cache, rfl⟩
    · exact ⟨_, rfl⟩
  have h2 : ∀ (l : List Term) (s : State), ∃ c, s.cacheTerms l = { s with mix.cache := c } := by
    intro l
    induction l with
    | nil => exact fun s => ⟨s.mix.cache, rfl⟩
    | cons t l ih =>
      intro s
      simp only [State.cacheTerms]; split
      · rename_i b _ _
        obtain ⟨c, hc⟩ := h1 s b
        obtain ⟨c', hc'⟩ := ih (s.cacheSelection b)
        exact ⟨c', by rw [hc', hc]⟩
      · exact ih s
  simp only [State.cacheSlot]; split
  · exact h2 _ s
  · exact ⟨s.mix.cache, rfl⟩

/-- The reads of one use are issued in order, one for each home position it needs (R67). -/
theorem State.issueReads_own (l : List (Nat × Nat)) (s : State) (j : Nat) (ha : s.path.active = true) :
    ∃ fs, (s.issueReads j l).path.ownWait = s.path.ownWait ++ fs ∧
      fs.map (fun f => (f.addr, f.op, f.owner)) =
        l.map (fun x => (s.path.address (homeOffset x.1 x.2), BurstOp.read, Owner.jobRead x.1 j)) := by
  induction l generalizing s with
  | nil => exact ⟨[], by simp [State.issueReads], rfl⟩
  | cons x l ih =>
    obtain ⟨a, b⟩ := x
    obtain ⟨fs, h1, h2⟩ := ih (s.issue (.jobRead a j) (homeOffset a b) .read) (by simpa [PathSwitch.active] using ha)
    refine ⟨{ id := s.path.nextId, addr := s.path.address (homeOffset a b), op := .read, owner := .jobRead a j } :: fs, ?_, ?_⟩
    · simp only [State.issueReads, h1]
      simp [State.issue, ha]
    · simp only [List.map_cons, h2]
      simp [PathSwitch.address]

/-! ### Turrets that hear of an accepted frame -/

/-- A turret that hears of an accepted frame is PRESENT with run 0; the others are as they were (R26). -/
theorem State.hearTurret_turret (s : State) (t u : Nat) :
    (s.hearTurret t).turret u = if u = t then { s.turret t with presence := .present, run := 0 } else s.turret u := by
  have key : (s.hearTurret t).src.turrets =
      (s.setTurret t { s.turret t with presence := .present, run := 0 }).src.turrets := by
    simp only [State.hearTurret]; split <;> simp
  simp only [State.turret, key, State.setTurret_frame, Table.get_set]

/-- Every enabled turret, of those asked, whose record names the source is PRESENT with run 0 (R26). -/
theorem State.hearTurrets_turret (s : State) (i u : Nat) (l : List Nat) :
    (s.hearTurrets i l).turret u =
      if u ∈ l ∧ (s.turret u).record.enabled = true ∧ (s.turret u).record.names i = true then
        { s.turret u with presence := .present, run := 0 }
      else s.turret u := by
  induction l generalizing s with
  | nil => simp [State.hearTurrets]
  | cons t l ih =>
    simp only [State.hearTurrets]
    split
    · rename_i h
      rw [ih, State.hearTurret_turret]
      by_cases hu : u = t
      · subst hu
        simp only [Bool.and_eq_true] at h
        simp [h]
      · simp [hu]
    · rename_i h
      rw [ih]
      by_cases hu : u = t
      · subst hu
        simp only [Bool.and_eq_true, not_and] at h
        by_cases h1 : (s.turret u).record.enabled = true
        · simp [h1, h h1]
        · simp [h1]
      · simp [hu]

end Sys2Proof.Machine
end

