-- ==== Sys2Proof/Tests/Slice0.lean ====
section
/-!
SUPPORT. Tests. The expected values are the spec's: its worked figures and worked sequences, named in each comment. The second half
shows, for each statement with hypotheses, a concrete state and operands that meet all of them together.
-/

namespace Sys2Proof.Tests

open Sys2Proof.Machine

set_option Elab.async false

/-! ### What the tests start from -/

/-- The state that a command leaves. -/
def ran (c : Instr) (s : State) : State :=
  match exec c s with
  | .next t => t
  | _ => s

/-- Bytes 0 on of a burst. -/
def bytes (l : List Nat) : Burst := packBytes (l.map (BitVec.ofNat 8))

/-- A frame of 16 equal samples. -/
def level (x : Int) : Burst := packSamples (List.replicate 16 x)

/-- BASE 0x40 and DECODE_EN, sampled; nothing in flight and no response waiting. -/
def quiet : PathSwitch := { base := 0x40, decodeEn := true }

/-- Line 7 of the ringdown sequence (04). -/
def line7 : LineRec :=
  { enabled := true, far := 300, out := 200, privacy := .oneHandset, rxGain := 16384, mode := .required, program := 2,
    ringGain := 8192, ringLimit := 30, hold := some 370 }

/-- Line 9 of the ringdown sequence (04). -/
def line9 : LineRec := { enabled := true, far := 302, out := 202, privacy := .sharedLine, rxGain := 16384, mode := .wanted }

/-- Program 2 of the ring sequence (05). -/
def program2 : Program := { ending := .repeats, steps := [⟨3, some 360, true⟩, ⟨2, none, false⟩] }

/-- The box of the box sequence (06), with its two members. -/
def box6 : Group :=
  { record := { enabled := true, kind := .box, cap := 2, keyLimit := 5, mode := .required, feeds := [⟨320, 16384, 210⟩] }
    members :=
      [{ turret := 3, attach := .speaker, mic := some 135, slot := 150, listenGain := 16384, talker := true, talkGain := 16384 },
       { turret := 20, attach := .speaker, mic := some 162, slot := 152, listenGain := 16384, talker := true, talkGain := 16384 }] }

/-- A MIC source that is enabled. -/
def mic : Source := { record := { enabled := true } }

/-- Source 40 of the acceptance sequence (01), as it starts. -/
def source40 : Source :=
  { record := { enabled := true, threshold := 500, onset := .twoOf3, hang := 3, guardLimit := 4 }
    tags := ⟨[(0, some 96), (1, some 97), (2, some 98), (3, some 99), (4, some 92), (5, some 93), (6, some 94), (7, some 95)]⟩ }

/-- The far source of line 7 as a contributor. -/
def far7 : BusEntry := { contrib := { source := 300, gain := 16384, kind := .opened }, byRecord := true }

/-- A floor that the sequences share: direct view 3 on source 40 and slot 12, gather view 4 of width 4 on sources 60 to 67, lines 7 and
9, turrets 3, 5 and 12, box 6, an intercom 4, program 2, and channels 0 to 4 bound elsewhere. -/
def floor : State :=
  { path := quiet
    src := { F := 100
             views := ⟨[(3, { record := { enabled := true, channels := 2, talkBase := 40, listenBase := 12 } }),
                        (4, { record := { enabled := true, channels := 8, width := 4, talkBase := 60, listenBase := 32 } })]⟩
             sources := ⟨[(40, source40), (41, { record := { enabled := true, kind := .tone, loop := 4 } }), (60, mic), (61, mic),
                          (62, mic), (300, mic)]⟩
             turrets := ⟨[(3, { record := { enabled := true, micL := some 12, micSpeaker := some 135, slotL := 12, slotR := 13,
                                            slotRinger := 140 }, presence := .present }),
                          (5, { record := { enabled := true, micL := some 40, slotL := 40 }, presence := .present, run := 49 }),
                          (12, { record := { enabled := true, micL := some 48, slotL := 48, slotRinger := 149 },
                                 presence := .present })]⟩ }
    mix := { slots := ⟨[(12, { enabled := true, planned := [⟨.source 40, 16384⟩, ⟨.source 41, 16384⟩] })]⟩
             buses := ⟨[(7, { list := [far7] })]⟩ }
    line := { lines := ⟨[(7, { record := line7, bank0 := [some ⟨3, true⟩, some ⟨12, true⟩] }),
                         (9, { record := line9, bank0 := [some ⟨3, false⟩] })]⟩ }
    ring := { programs := ⟨[(2, program2)]⟩ }
    group := { groups := ⟨[(4, { record := { enabled := true, cap := 2 } }), (6, box6)]⟩ }
    recorder := { channels := ⟨[(0, ⟨some (.line 100), 0⟩), (1, ⟨some (.line 101), 0⟩), (2, ⟨some (.line 102), 0⟩),
                                (3, ⟨some (.line 103), 0⟩), (4, ⟨some (.line 104), 0⟩)]⟩ } }

/-- The head of a request that master 9 writes in cell 5, answered in ring 1. -/
def head : RequestHead := { master := 9, cell := 5, ring := 1, tag := 0x0107 }

/-- Line 7 in a state, with handsets joined. -/
def lineIn (st : LineStatus) (joined : List Nat) : Line :=
  { record := line7, bank0 := [some ⟨3, true⟩, some ⟨12, true⟩], status := st, joined := joined }

/-- The floor with line 7 in a state and handset 6 joined to it, its contributor and its term applied. -/
def joined7 (st : LineStatus) : State :=
  { ((floor.setLine 7 (lineIn st [6])).setOccupancy 6 (.line 7)).setSlot 12
      { floor.slot 12 with dynamic := [{ term := lineTerm 7 (some 12), origin := .line }] } with
    mix.buses := floor.mix.buses.set 7 { list := [far7, { contrib := ⟨12, 16384, .opened⟩ }] } }

/-- An order of the work of a close. -/
def order : CloseOrder := ⟨.afterListing, false⟩

/-! ### WellFormed refuses what no port carries (R161, R163) -/

theorem test_wellFormed_unaligned : (Instr.forwardedBurst (.taken 0 0x40000001 .read .later)).wellFormed = false := by decide
theorem test_wellFormed_unaligned_error : (Instr.burstAnsweredError 0 0x40000010 .read).wellFormed = false := by decide
theorem test_wellFormed_unaligned_cell : (Instr.partialCellWrite 0 0x4009A001 0 1 .ok).wellFormed = false := by decide
theorem test_wellFormed_full_cell : (Instr.partialCellWrite 0 0x4009A000 0 Enables.full .ok).wellFormed = false := by decide
theorem test_wellFormed_full_plan : (Instr.planPartialWrite 0 0 0 Enables.full .ok).wellFormed = false := by decide
theorem test_wellFormed_accepts :
    (Instr.forwardedBurst (.taken 0 0x40000020 .read .later)).wellFormed = true ∧
      (Instr.partialCellWrite 0 0x4009A000 0 1 .ok).wellFormed = true ∧ (Instr.planPartialWrite 0 0 0 1 .ok).wellFormed = true := by
  decide

/-! ### Figures -/

/-- The table of R13 for L = 2, and the sequence of 01: a duplicate's position, and P = 104. -/
theorem test_classify :
    (List.range 8).map (fun d => classify d 2) = [.stale, .late, .onTime, .early, .early, .early, .early, .stale] ∧
      ringDistance 4 98 = 2 ∧ ringDistance 0 100 = 4 ∧ ringDistance 7 104 = 7 := by decide
/-- The worked figures of R29. -/
theorem test_frameLevel :
    frameLevel (packSamples ((List.replicate 8 [800, -800]).flatten)) = 800 ∧
      frameLevel (packSamples (15 :: List.replicate 15 0)) = 0 ∧ frameLevel (level (-32768)) = 32768 := by decide +kernel
/-- The worked figures of R33, with a silence that ends at 0. -/
theorem test_smooth : smooth 400 800 = 450 ∧ smooth 450 0 = 393 ∧ smooth 5 0 = 4 ∧ smooth 1 0 = 0 := by decide
/-- R63: to the nearest multiple, halves upward. -/
theorem test_round14 : round14 8192 = 1 ∧ round14 (-8192) = 0 ∧ round14 (-8193) = -1 ∧ sat16 40000 = 32767 := by decide
/-- Listener A of the worked intercom (03), and listener C, whose excluded voice is not counted. -/
theorem test_mix :
    (let got := [(10, level 1000), (11, level (-2000)), (12, level 3000), (200, level 600)]
     let bus := [(11, 12288), (10, 16384)]
     mixSample got 12288 [.bus 16384 bus (some 10), .source 4096 200] 3 = -1012 ∧
       mixSample got 16384 [.bus 16384 bus (some 12)] 3 = -500) := by decide +kernel
/-- R149: a sum of 12345 gives 53190. -/
theorem test_checksum :
    recordChecksum (List.replicate 30 0) (bytes (List.replicate 32 255)) (bytes (List.replicate 16 255 ++ [105])) = 53190 := by
  decide +kernel
/-- The notice read in 11 Central Formats: line 7, CONNECTED to HELD at F = 8150. -/
theorem test_notice :
    encodeNotice (lineNotice { floor with src.F := 8150 } 7 .connected .held .lineSwitch (some 6) .done) =
      bytes [0, 0, 6, 0, 0xD6, 0x1F, 0, 0, 7, 0, 3, 6, 4, 5] := by decide +kernel

/-! ### The pins -/

/-- R162: while RESET is asserted a talk write is forwarded like any burst of memory, and no tag is set. -/
theorem test_reset_forwards :
    (let t := ran (.talkWrite 2 3 4 (level 1)) (ran .resetAssert floor)
     (t.source 40).tag 4 = some 92 ∧ t.path.fwdWait.map (·.addr) = [0x4000C080]) := by decide +kernel
/-- R161, R172; and R162: a home read taken before RESET is answered after the release. -/
theorem test_reset_release :
    (let t := ran (.resetRelease 0x41 true) (ran .resetAssert (ran (.homeRead 2 3 4) { floor with mem := storeBurst [] 0x40082880 (level 7) }))
     t.path.base = 0x41 ∧ (t.lineAt 7).record.enabled = false ∧ t.src.F = 0 ∧
       (ran (.homeReadAnswered 0 true) t).path.returned = [(2, .okData (level 7))]) := by decide +kernel
/-- R162: a SEIZE for line 7 taken before RESET and answered after it is handed on where DECODE_EN is sampled high and to no block
where low; and an outbound cell write issued before RESET is answered and lands in memory. -/
theorem test_release_answers :
    (let s : State := { floor with path.presented := [⟨0, 0x400981E0, fullWrite 2, .signal 7⟩], path.nextId := 1 }
     let s := ran .resetAssert (ran (.forwardedBurst (.taken 2 0x400981C0 (fullWrite 1) .later)) s)
     let t (high : Bool) := ran (.forwardedBurst (.answered 0 true)) (ran (.resetRelease 0x40 high) s)
     ((t true).lineAt 7).inbound = .seize ∧ ((t false).lineAt 7).inbound = .clear ∧ (t false).path.returned = [(2, .ok)] ∧
       readBurst (ran (.forwardedBurst (.ownAnswered 0)) (t true)).mem 0x400981E0 = 2) := by decide +kernel
/-- The close of the acceptance sequence (01) that begins P = 103: CONCEALED, and turret 5 is lost at run 50. -/
theorem test_close_concealed :
    (let t := ran (.frameClose order)
       ((({ floor with src.F := 104 } : State).setSource 40
         { source40 with tags := (source40.tags.set 6 (some 102)).set 7 (some 95) }))
     (t.source 40).status = .concealed ∧ (t.turret 5).presence = .lost ∧ t.P = 103) := by decide +kernel
/-- The close of the detection sequence (02) that begins P = 202. -/
theorem test_close_detects :
    (let x := { source40 with
        tags := ⟨[(2, some 202)]⟩, levels := ⟨[(2, 900)]⟩
        det := { smoothed := 125, peak := 800, history := [false, true, false, false, false, false, false, false] } }
     let t := ran (.frameClose order) (({ floor with src.F := 203 } : State).setSource 40 x)
     (t.source 40).det.smoothed = 221 ∧ (t.source 40).det.peak = 900 ∧ (t.source 40).det.flag = true ∧
       (t.source 40).det.hang = 3 ∧ (t.source 40).det.guardRun = 1) := by decide +kernel
/-- R3, R196: CLOCK_LOST gives one notice, kind 16 of class FLOOR, carrying F = 100. -/
theorem test_clock_lost :
    (let t := ran .clockLost floor
     t.src.clockLost = true ∧ t.path.ownWait.map (·.op) =
       [fullWrite (bytes [6, 16, 255, 0, 100, 0, 0, 0, 255, 255, 255, 255, 255, 255])]) := by decide +kernel
/-- The floor time sequence of 07, at its second strobe. -/
theorem test_second_strobe :
    (let t := ran .secondStrobe
       { floor with recorder := { floor.recorder with seconds := 5000, frameInSecond := 999, staged := some 86400 } }
     t.recorder.seconds = 86400 ∧ t.recorder.frameInSecond = 0 ∧ t.recorder.fresh = true ∧ t.recorder.staged = none) := by
  decide +kernel

/-! ### Bursts -/

/-- R161, R163: the master that asks outside the floor region waits for memory's answer. -/
theorem test_forwarded_taken :
    (let t := ran (.forwardedBurst (.taken 2 0x10000020 .read .later)) floor
     t.path.fwdWait.map (·.addr) = [0x10000020] ∧ (t.queue 2).map (·.awaiting) = [1]) := by decide +kernel
/-- R168: of two that wait, the forwarded one goes first after an own one. -/
theorem test_forwarded_presented :
    (let t := ran (.forwardedBurst .presented)
       (ran (.forwardedBurst (.taken 2 0x10000020 .read .later)) (ran (.homeRead 2 3 0) floor))
     t.path.presented.map (·.addr) = [0x10000020]) := by decide +kernel
/-- Event 3 of the two masters' sequence (08): a write of the record ring area. -/
theorem test_error_at_once :
    (ran (.burstAnsweredError 2 0x40100000 (fullWrite 1)) floor).path.returned = [(2, .error)] := by decide +kernel
/-- The first event of the acceptance sequence (01): position 4 is ON_TIME for F = 100. -/
theorem test_talk_on_time :
    (let t := ran (.talkWrite 2 3 4 (level 800)) floor
     (t.source 40).tag 4 = some 100 ∧ (t.source 40).levelTag 4 = 800 ∧ (t.source 40).arrivals.onTime = 1 ∧
       (t.turret 5).run = 0 ∧ t.path.ownWait.map (·.addr) = [0x40082880]) := by decide +kernel
/-- Its last event: at P = 104 position 7 is STALE. -/
theorem test_talk_stale :
    (let t := ran (.talkWrite 2 3 7 (level 800)) { floor with src.F := 106 }
     (t.source 40).tag 7 = some 95 ∧ (t.source 40).arrivals.stale = 1 ∧ (t.turret 5).run = 49 ∧
       t.path.returned = [(2, .ok)]) := by decide +kernel
/-- R17, R19, C = 4: the four bursts of position 4 of group 0; frame 1 takes place 1, 5, 9 and 13 of each burst. -/
theorem test_gather_completes :
    (let burst (j : Int) : Burst := packSamples ((List.range 16).map fun k => 100 * j + k)
     let t := ran (.gatherBurst 2 4 19 (burst 3)) (ran (.gatherBurst 2 4 18 (burst 2))
       (ran (.gatherBurst 2 4 17 (burst 1)) (ran (.gatherBurst 2 4 16 (burst 0)) floor)))
     (t.source 61).tag 4 = some 100 ∧ (t.source 63).tag 4 = none ∧
       (t.path.ownWait.map (·.op))[1]? = some (fullWrite (packSamples
         [1, 5, 9, 13, 101, 105, 109, 113, 201, 205, 209, 213, 301, 305, 309, 313]))) := by decide +kernel
/-- R18: a burst for another position discards the block. -/
theorem test_gather_broken :
    (let t := ran (.gatherBurst 2 4 20 0) (ran (.gatherBurst 2 4 16 0) floor)
     (t.source 60).arrivals.gatherBroken = 1 ∧ (t.source 63).arrivals.gatherBroken = 0) := by decide +kernel
/-- R9: the home read of source 40, position 7. -/
theorem test_home_read :
    (ran (.homeRead 2 3 7) floor).path.ownWait.map (fun f => (f.addr, f.op)) = [(0x400828E0, .read)] := by decide +kernel
/-- R67: slot 12 for P = 98 reads source 40 at position 2 and the TONE source 41 of loop 4 at position 2. -/
theorem test_listen_read :
    (ran (.listenRead 2 3 0) (floor.setSource 40 { source40 with status := .present })).path.ownWait.map (·.addr) =
      [0x40082840, 0x40082940] := by decide +kernel
/-- R65: during CLOCK_LOST zeros, at once. -/
theorem test_listen_clock_lost :
    (ran (.listenRead 2 3 0) { floor with src.clockLost := true }).path.returned = [(2, .okData 0)] := by decide +kernel
/-- R12, R163: a MIC source's home refuses, a TONE source's takes. -/
theorem test_home_write :
    (ran (.sourceHomeWrite 2 40 0 (level 5) Enables.full .ok) floor).path.returned = [(2, .error)] ∧
      readBurst (ran (.sourceHomeWrite 2 41 0 (level 5) Enables.full .ok) floor).mem 0x40082900 = level 5 := by decide +kernel
/-- Event 1 of the ringdown (04): INBOUND_RING, with the ringer terms asked in slots 140 and 149. -/
theorem test_inbound_seize :
    (let t := ran (.inboundSignalWrite 1 7 (bytes [1])) { floor with src.F := 8000 }
     (t.lineAt 7).status = .inboundRing ∧ (t.player 7).phase = .starting ∧
       (t.slot 140).adds.map (·.term) = [⟨.cadence 7, 8192⟩] ∧ (t.slot 149).adds.map (·.term) = [⟨.cadence 7, 8192⟩]) := by
  decide +kernel
/-- R83: any other code is FAULT, and the joined handset is sent away. -/
theorem test_inbound_fault :
    (let t := ran (.inboundSignalWrite 1 7 (bytes [9])) (joined7 .connected)
     (t.lineAt 7).status = .outOfService ∧ (t.lineAt 7).inbound = .fault ∧ t.occupancy 6 = .vacant) := by decide +kernel
/-- R76, R171. -/
theorem test_partial_cell :
    (let t := ran (.partialCellWrite 1 0x400981C0 (bytes [1]) 1 .ok) floor
     t.path.partialWrites = 1 ∧ (t.lineAt 7).status = .idle ∧ t.path.returned = [(1, .ok)]) := by decide +kernel

/-! ### Requests -/

/-- Event 3 of the ringdown (04): turret 3 answers, takes channel 5, and its key on a PRIVATE line makes the second BUSY. -/
theorem test_key_answers :
    (let s := { floor with src.F := 8001 }.setLine 7 { lineIn .inboundRing [] with inbound := .seize }
     let t := ran (.lineKey head 3 0 7) s
     (t.lineAt 7).status = .connected ∧ (t.lineAt 7).joined = [6] ∧ t.occupancy 6 = .line 7 ∧
       t.channelOf (.line 7) = some 5 ∧ (t.bus 7).adds.map (·.contrib.source) = [12] ∧ (t.lineKey 12 0 7).2 = .busy) := by
  decide +kernel
/-- Event 5 of the ringdown (04): the key of line 9 parks line 7 in HELD with its hold term. -/
theorem test_key_switches :
    (let t := ran (.lineKey head 3 0 9) (joined7 .connected)
     (t.lineAt 7).status = .held ∧ (t.lineAt 7).holdPlaced = true ∧ (t.lineAt 9).status = .outboundWait ∧
       t.occupancy 6 = .line 9 ∧ (t.slot 200).adds.map (·.term) = [⟨.source 370, 16384⟩] ∧
       (t.slot 12).adds.map (·.term) = [⟨.bus 9 (some 12), 16384⟩]) := by decide +kernel
/-- The release of 04: the last handset leaves a CONNECTED line RELEASING, and CLEAR is written. -/
theorem test_release :
    (let t := ran (.lineRelease head 3 0 7) (joined7 .connected)
     (t.lineAt 7).status = .releasing ∧ (t.lineAt 7).joined = [] ∧ t.occupancy 6 = .vacant ∧
       (t.path.ownWait.map (·.op))[0]? = some (fullWrite (bytes [0, 0, 0, 0, 100]))) := by decide +kernel
/-- R94: the last handset holds. -/
theorem test_hold :
    (let t := ran (.lineHold head 3 0 7) (joined7 .connected)
     (t.lineAt 7).status = .held ∧ (t.lineAt 7).holdPlaced = true ∧ t.occupancy 6 = .vacant) := by decide +kernel
/-- R118, R122: turret 3 joins the intercom with its handset R, which has no mic. -/
theorem test_group_join :
    (let t := ran (.groupJoin head 3 4 1 0 0 16384 16384) floor
     ((t.groupAt 4).members.map (·.talker)) = [false] ∧ t.occupancy 7 = .group 4 ∧
       (t.slot 13).adds.map (·.term) = [⟨.bus 132 none, 16384⟩]) := by decide +kernel
/-- R124. -/
theorem test_group_leave :
    ((ran (.groupLeave head 20 6) floor).groupAt 6).members.map (·.turret) = [3] := by decide +kernel
/-- Event 1 of the box sequence (06). -/
theorem test_talk_key :
    (let t := ran (.talkKey head 3 6) floor
     (t.groupAt 6).members.map (·.keyed) = [true, false]) := by decide +kernel
/-- R127. -/
theorem test_talk_unkey :
    (let t := ran (.talkUnkey head 3 6) (floor.setGroup 6 (box6.setKey 3 true))
     (t.groupAt 6).members.map (·.keyed) = [false, false]) := by decide +kernel
/-- The floor time sequence of 07, at its SET_TIME; the result goes to the reply ring, ring 1 (R183). -/
theorem test_set_time :
    (let t := ran (.setTime head 86400) floor
     t.recorder.staged = some 86400 ∧ t.path.ownWait.map (·.addr) = [0x400C8000]) := by decide +kernel
/-- R43, R184, R185, R195: the requests that wait for a close. -/
theorem test_waiting_requests :
    (ran (.levelSnapshot head) floor).src.snapPending = [⟨5, 1, 0x0107⟩] ∧
      (ran (.stateImage head) floor).notice.imagePending = [⟨5, 1, 0x0107⟩] ∧
      (ran (.clearCounts head) floor).plan.clears = [⟨5, 1, 0x0107⟩] ∧
      (ran (.floorRestart head) floor).plan.restart = some ⟨5, 1, 0x0107⟩ := by decide +kernel
/-- R182: kind 12 is none of the twelve; the result is code 1 in ring 0. -/
theorem test_bad_request :
    (let t := ran (.badRequest 9 5 (bytes [12, 1])) floor
     t.path.ownWait.map (fun f => (f.owner, (match f.op with | .write d _ => byteOf d 3 | _ => 0))) = [(.notice 0 0, 1)]) := by
  decide +kernel

/-! ### Taken cells and the plan area -/

/-- The recovery of 07: the consumer cell takes 10, and the free space is 10. -/
theorem test_record_consumer :
    (let t := ran (.recordConsumerWrite 9 (bytes [10]))
       { floor with recorder := { floor.recorder with cap := 64, producer := 63 } }
     t.recorder.consumer = 10 ∧ t.recorder.free = 10) := by decide +kernel
/-- R193: a value at the capacity is ignored. -/
theorem test_notice_consumer :
    ((ran (.noticeConsumerWrite 9 2 (bytes [15])) (floor.setRing 2 { cap := 16 })).noticeRing 2).consumer = 15 ∧
      ((ran (.noticeConsumerWrite 9 2 (bytes [16])) (floor.setRing 2 { cap := 16 })).noticeRing 2).consumer = 0 := by
  decide +kernel
/-- Event 1 of the held records (09): turret record 3 stands at 0x0A0860, record number 67. -/
theorem test_plan_write :
    (let t := ran (.planWrite 9 67 (bytes [1])) floor
     t.plan.staging.map (·.record) = [67] ∧ (0x0A0860 - 0x0A0000) / 32 = 67 ∧ recordId 67 = some (.turret 3)) := by decide +kernel
/-- R175: a partial write is not staged, and is PLAN_RESULT with code 21. -/
theorem test_plan_partial :
    (let t := ran (.planPartialWrite 9 67 (bytes [1]) 1 .ok) floor
     t.plan.staging = [] ∧ t.path.ownWait.map (fun f => (match f.op with | .write d _ => byteOf d 3 | _ => 0)) = [21]) := by
  decide +kernel

/-! ### Memory's answers -/

/-- R14, R167: the answer to the home write lets the OK leave. -/
theorem test_home_write_answered :
    (let t := ran (.homeWriteAnswered 0 true) (ran (.talkWrite 2 3 4 (level 800)) floor)
     t.path.returned = [(2, .ok)] ∧ readBurst t.mem 0x40082880 = level 800) := by decide +kernel
/-- R9: the master receives the frame. -/
theorem test_home_read_answered :
    (let s := { floor with mem := storeBurst [] 0x40082880 (level 7) }
     (ran (.homeReadAnswered 0 true) (ran (.homeRead 2 3 4) s)).path.returned = [(2, .okData (level 7))] ∧
       (ran (.homeReadAnswered 0 false) (ran (.homeRead 2 3 4) s)).path.returned = [(2, .okData 0)]) := by decide +kernel
/-- R62: the two sources of slot 12 at unity add up. -/
theorem test_listen_completes :
    (let s := { floor with mem := storeBurst (storeBurst [] 0x40082840 (level 7)) 0x40082940 (level 600) }.setSource 40
       { source40 with status := .present }
     (ran (.listenReadComplete 0) (ran (.listenRead 2 3 0) s)).path.returned = [(2, .okData (level 607))]) := by decide +kernel
/-- R169, R170: a home write answered ERROR. -/
theorem test_memory_fault :
    (let t := ran (.memoryFault 0) (ran (.talkWrite 2 3 4 (level 800)) floor)
     t.path.memoryFaults = 1 ∧ t.path.faultMark = true ∧ t.path.returned = [(2, .ok)] ∧ (t.source 40).tag 4 = some 100) := by
  decide +kernel

/-- A listed record of group 6 on channel 5, with nothing to read. -/
def listed (job : Nat) : PendingRecord :=
  { batch := 1, channel := 5, object := .group 6, frame := 1002, seconds := 0, frameInSecond := 0, aStatus := .silent,
    stateByte := 0, talkers := [], aPart := { id := job, work := .zeros }, bPart := { id := job + 1, work := .zeros } }

/-- The record ring of 07 for P = 1002, when channel 5's record comes to be placed. -/
def recording (producer : Nat) (records : List PendingRecord) : State :=
  { floor with
    path := { quiet with nextId := 100 }
    recorder := { channels := ⟨[(0, ⟨some (.line 7), 0⟩), (5, ⟨some (.group 6), 0⟩)]⟩, cap := 64, producer := producer,
                  records := records, batches := [{ id := 1, frame := 1002, wrote := true, producerAfter := producer }] } }

/-- 07, P = 1002: with free space 1 the record is written at entry 62, and p becomes 63. -/
theorem test_record_placed :
    (let t := ran .recordPlace (recording 62 [listed 10])
     t.recorder.producer = 63 ∧ t.path.ownWait.map (·.addr) = [0x40101740, 0x40101760, 0x40101780]) := by decide +kernel
/-- 07, P = 1002: with free space 0 the record is dropped, and the outage begins. -/
theorem test_record_dropped :
    (let t := ran .recordPlace (recording 63 [listed 10])
     t.recorder.producer = 63 ∧ t.recorder.status = .outage ∧ (t.channel 5).dropped = 1) := by decide +kernel
/-- R150: channel 5, freed and granted to group 6 again since the listing, is not still bound: the drop counts nowhere. -/
theorem test_record_regranted :
    (let s := (recording 63 [listed 10]).reportIdle (.group 6)
     let t := ran .recordPlace (s.setChannel 5 { bound := some (.group 6), dropped := 0 })
     (s.channel 5).bound = none ∧ t.recorder.status = .outage ∧ t.channel 5 = { bound := some (.group 6), dropped := 0 }) := by
  decide +kernel
/-- 07: the progress cell after the records of P = 1002 carries p = 63. -/
theorem test_record_progress :
    (ran .recordProgressWrite (recording 63 [])).path.ownWait.map (·.op) =
      [fullWrite (bytes [63, 0, 0, 0, 0xEA, 3, 0, 0, 0])] := by decide +kernel
/-- R192, R194: with the CLOCK_LOST notice answered, index 1 is published, and INT0 with its enable on. -/
theorem test_notice_progress :
    (let t := ran (.noticeProgressWrite 0 1) (ran .clockLost { floor with plan.floor.enables := 1 })
     (t.noticeRing 0).published = 1 ∧ t.int 0 = true ∧
       t.path.ownWait.map (·.op) = [fullWrite (bytes [1, 0, 0, 0, 100, 0, 0, 0])]) := by decide +kernel
/-- R168, R192, R196: of ring 0 emptied to 16 entries, a write of its entry 16 from before is none of those below index 1, and stays in
flight. -/
theorem test_notice_progress_stale :
    (let old : Flight := ⟨3, 0x400C0200, fullWrite 1, .notice 0 16⟩
     let t := ran (.noticeProgressWrite 0 1) (ran .clockLost
       (({ floor with path.presented := [old], path.nextId := 4 } : State).setRing 0 { cap := 16 }))
     (t.noticeRing 0).published = 1 ∧ t.path.unanswered.map (·.addr) = [0x400C0200, 0x400B0000]) := by decide +kernel
/-- R44, R195: IMAGE_DONE, then the result of each request served. -/
theorem test_images_done :
    (ran .levelImageDone { floor with src.levelImage := some ⟨204, [⟨5, 1, 9⟩], false⟩ }).path.ownWait.map (·.owner) =
        [.notice 0 0, .notice 1 0] ∧
      (ran .stateImageDone { floor with notice.image := some ⟨204, [], false⟩ }).path.ownWait.map (·.owner) = [.notice 0 0] := by
  decide +kernel

/-- A level image with one burst in flight, a snapshot deferred while it is written. -/
def lastBurst : State :=
  { floor with
    src.levelImage := some ⟨204, [⟨5, 1, 9⟩], false⟩, src.snapDeferred := [⟨6, 0, 8⟩]
    path := { quiet with nextId := 1, presented := [⟨0, 0x400B1BE0, fullWrite 0, .levelImage⟩] } }

/-- R44, R195: the answer to the last burst completes the image, OK or ERROR, and the deferred snapshot is pending for the next
close. -/
theorem test_last_burst :
    (let t := ran (.forwardedBurst (.ownAnswered 0)) lastBurst
     t.src.levelImage = none ∧ t.src.snapPending = [⟨6, 0, 8⟩] ∧ t.path.ownWait.map (·.owner) = [.notice 0 0, .notice 1 0]) ∧
    (let t := ran (.memoryFault 0) lastBurst
     t.src.levelImage = none ∧ t.path.ownWait.map (·.owner) = [.notice 0 0, .notice 0 1, .notice 1 0]) := by decide +kernel

/-! ### The events of a close -/

/-- R27, R97: turret 3, joined to line 7, is lost, and line 7 is parked. -/
theorem test_turret_lost :
    (let t := ran (.turretLost 3) ((joined7 .connected).setTurret 3 { floor.turret 3 with run := 50 })
     (t.turret 3).presence = .lost ∧ (t.lineAt 7).status = .held ∧ t.occupancy 6 = .vacant ∧
       (t.groupAt 6).members.map (·.turret) = [20]) := by decide +kernel
/-- R96: the ring limit 30 is 3000 closes. -/
theorem test_ring_limit :
    ((ran (.ringLimit 7) (floor.setLine 7 { lineIn .inboundRing [] with ringRun := 3000 })).lineAt 7).status = .unanswered ∧
      ((ran (.ringLimit 7) (floor.setLine 7 { lineIn .inboundRing [] with ringRun := 2999 })).lineAt 7).status = .inboundRing := by
  decide +kernel
/-- The release limit of 04: at 2000 the line rings again. -/
theorem test_release_timeout :
    ((ran (.releaseTimeout 7) (floor.setLine 7 { lineIn .releasing [] with releaseTimer := 2000 })).lineAt 7).status = .inboundRing ∧
      ((ran (.releaseTimeout 7) (floor.setLine 7 { lineIn .releasing [] with releaseTimer := 1999 })).lineAt 7).status =
        .releasing := by decide +kernel
/-- The box sequence (06): the close that finds a run equal to the key limit 5 makes F = 20006 and unkeys, and its UNKEYED carries
20006; before it, at F = 20005, no timeout is due. -/
theorem test_key_timeout :
    (let keyed (run : Nat) : State := ({ floor with src.F := 20005 } : State).setGroup 6 { box6 with
       members := box6.members.map fun m => if m.turret = 3 then { m with keyed := true, keyedRun := run } else m }
     (ran (.keyTimeout 6 3) (keyed 5)).groupAt 6 = (keyed 5).groupAt 6 ∧
       ((ran (.frameClose order) (keyed 5)).groupAt 6).members.map (·.keyed) = [false, false] ∧
       (ran (.frameClose order) (keyed 5)).path.ownWait.any (fun f => f.op == fullWrite (encodeNotice
         { cls := .group, kind := .unkeyed, cause := some .keyTimeout, frame := 20006, object := some 6, turret := some 3,
           old := some 1, new := some 0 })) = true ∧
       ((ran (.frameClose order) (keyed 4)).groupAt 6).latched = [135]) := by decide +kernel
/-- R71: mic 12, whose join the loss of its turret has marked for removal, is line 7's far source by a record of the same close: the
restart keeps the record's copy alone. -/
theorem test_restart_join_goes :
    (let b : Bus := { list := [{ contrib := ⟨12, 16384, .opened⟩, mark := .remove }, { far7 with mark := .remove }]
                      adds := [{ contrib := ⟨12, 16384, .opened⟩, byRecord := true }] }
     let t := ran (.frameClose order) { floor with plan.restart := some ⟨5, 1, 7⟩, mix.buses := ⟨[(7, b)]⟩ }
     (t.bus 7).inForce = [⟨12, 16384, .opened⟩] ∧ (t.bus 7).list.map (·.byRecord) = [true]) := by decide +kernel

/-- Source 40 with its talk flag on and a guard run. -/
def talking (run hang : Nat) : Source :=
  { source40 with det := { flag := true, guardRun := run, hang := hang, smoothed := 396,
                           history := [false, true, true, true, false, true, false, false] } }

/-- The detection sequence (02) at P = 205: a guard run of 4 guards. -/
theorem test_guard_on :
    ((ran (.guardOn 40) (floor.setSource 40 (talking 4 2))).source 40).det.guarded = true ∧
      ((ran (.guardOn 40) (floor.setSource 40 (talking 3 2))).source 40).det.guarded = false := by decide +kernel
/-- The detection sequence (02) at P = 207: at hang counter 0 the flag turns off. -/
theorem test_hang_expiry :
    ((ran (.hangExpiry 40) (floor.setSource 40 (talking 4 0))).source 40).det.flag = false ∧
      ((ran (.hangExpiry 40) (floor.setSource 40 (talking 4 1))).source 40).det.flag = true := by decide +kernel
/-- The ring sequence (05): after step 0 comes step 1 of 2 frames, gate OFF, and the program repeats. -/
theorem test_step_end :
    (let rung (i : Nat) : State := (floor.setLine 7 (lineIn .inboundRing [])).setPlayer 7 { phase := .stepping, index := i, gate := true }
     ((ran (.cadenceStepEnd 7) (rung 0)).player 7) = { phase := .stepping, index := 1, left := 2 } ∧
       ((ran (.cadenceStepEnd 7) (rung 1)).player 7) =
         { phase := .stepping, index := 0, left := 3, gate := true, tone := some 360 }) := by decide +kernel

/-! ### Witnesses: concrete states and operands that meet the hypotheses of each statement -/

/-- Every command answers the state it leaves. -/
theorem ran_spec (c : Instr) (s : State) : exec c s = .next (ran c s) := by rw [ran, exec_after]

/-- A burst to any floor offset has a clear way where nothing is in flight. -/
theorem way_quiet {s : State} (h : s.path = quiet) (m : Fin 16) (offset : Nat) : s.Way m offset := by
  have hq : s.queueFull m = false := by simp only [State.queueFull, State.queue, h]; decide +revert
  exact ⟨by rw [h]; decide, hq, by rw [h]; intro f hf; cases hf⟩

/-- The queue of a master that nothing waits in has room. -/
theorem room_quiet {s : State} (h : s.path = quiet) (m : Fin 16) : s.Room m :=
  ⟨(way_quiet h m 0).1, (way_quiet h m 0).2.1⟩

/-- A request has its way where nothing is in flight and no restart is pending. -/
theorem requestWay_quiet {s : State} (h : s.path = quiet) (hr : s.plan.restart = none) : s.RequestWay head :=
  ⟨way_quiet h _ _, by decide, hr⟩

theorem channelsExclusive_of {s : State} (h : ∀ c < 64, ∀ e < 64, (s.channel c).bound ≠ none →
    (s.channel c).bound = (s.channel e).bound → c = e) : ChannelsExclusive s :=
  fun c hc e he _ h1 h2 => h c hc e he (by simp [h1]) (h1.trans h2.symm)

/-- The handsets agree where one handset is on one line, 6 on line 7, and the members of groups 4 and 6 speak by their speakers. -/
theorem agree7 {s : State} (hl : s.line.lines.keys = [7, 9]) (hg : s.group.groups.keys = [4, 6])
    (ho : s.line.occupancy.entries = [(6, .line 7)])
    (h7 : (s.lineAt 7).joined = [6] ∧ (s.lineAt 7).record.enabled = true ∧
      ((s.lineAt 7).status = .outboundWait ∨ (s.lineAt 7).status = .connected ∨ (s.lineAt 7).status = .farCleared))
    (h9 : (s.lineAt 9).joined = [])
    (hm : ∀ g ∈ [4, 6], ((s.groupAt g).members.map (·.turret)).Nodup ∧ ((s.groupAt g).record.enabled = false → (s.groupAt g).members = []) ∧
      ∀ m ∈ (s.groupAt g).members, m.turret ≤ 63 ∧ attachHandset m.turret m.attach = none) : MembersOk s ∧ HandsetsOk s := by
  have hl : ∀ n, n ≠ 7 → n ≠ 9 → s.lineAt n = {} := fun n h7 h9 => Table.get_unlisted _ hl (by simp [h7, h9])
  have hg : ∀ g, g ≠ 4 → g ≠ 6 → s.groupAt g = {} := fun g h4 h6 => Table.get_unlisted _ hg (by simp [h4, h6])
  have ho : ∀ h, s.occupancy h = if h = 6 then .line 7 else .vacant := fun h => by
    by_cases h6 : h = 6 <;> simp [State.occupancy, Table.get, ho, lookup, h6]
  have hm : ∀ g, ((s.groupAt g).members.map (·.turret)).Nodup ∧ ((s.groupAt g).record.enabled = false → (s.groupAt g).members = []) ∧
      ∀ m ∈ (s.groupAt g).members, m.turret ≤ 63 ∧ attachHandset m.turret m.attach = none := fun g => by
    by_cases h4 : g = 4
    · subst h4; exact hm 4 (by simp)
    · by_cases h6 : g = 6
      · subst h6; exact hm 6 (by simp)
      · rw [hg g h4 h6]; simp
  refine ⟨fun g => ⟨(hm g).1, fun m h => ((hm g).2.2 m h).1⟩, fun n h => ?_, fun n => ?_, fun g => ⟨fun h => ?_, (hm g).2.1⟩⟩
  · rw [ho]
    by_cases e7 : n = 7
    · subst e7; rw [h7.1]; by_cases e6 : h = 6 <;> simp [e6]
    · by_cases e9 : n = 9
      · subst e9; rw [h9]; by_cases e6 : h = 6 <;> simp [e6]
      · rw [hl n e7 e9]; by_cases e6 : h = 6 <;> simp [e6, Ne.symm e7]
  · by_cases e7 : n = 7
    · subst e7; rw [h7.1]; exact ⟨by simp, by cases (s.lineAt 7).record.privacy <;> decide, fun _ => h7.2⟩
    · by_cases e9 : n = 9
      · subst e9; rw [h9]; simp
      · rw [hl n e7 e9]; simp
  · have : ¬ ∃ m ∈ (s.groupAt g).members, attachHandset m.turret m.attach = some h := by
      rintro ⟨m, h1, h2⟩; rw [((hm g).2.2 m h1).2] at h2; cases h2
    exact ⟨fun e => absurd (ho h ▸ e) (by split <;> simp), fun e => absurd e this⟩

theorem witness_StepRunsFront :
    State.reset.pending = [] ∧ ({ floor with pending := [.clockLost, .secondStrobe] } : State).pending = .clockLost :: [.secondStrobe] :=
  ⟨rfl, rfl⟩

/-- RESET asserted, and DECODE_EN sampled low; and a close while RESET is asserted. -/
theorem witness_ResetAsserted :
    ((ran .resetAssert floor).path.active = false ∧ (ran .resetAssert floor).queueFull 2 = false ∧
      (ran (.resetRelease 0x40 false) floor).path.active = false ∧ (ran (.resetRelease 0x40 false) floor).queueFull 2 = false) ∧
    (ran .resetAssert floor).path.resetAsserted = true ∧
      exec (.frameClose order) (ran .resetAssert floor) = .next (ran (.frameClose order) (ran .resetAssert floor)) ∧
      ∀ b d, Instr.frameClose order ≠ .resetRelease b d := ⟨by decide +kernel, by decide +kernel, ran_spec .., by simp⟩

theorem witness_OnlyClosesMoveF :
    exec .secondStrobe floor = .next (ran .secondStrobe floor) ∧ (∀ o, Instr.secondStrobe ≠ .frameClose o) ∧
      ∀ b d, Instr.secondStrobe ≠ .resetRelease b d := ⟨ran_spec .., by simp, by simp⟩

theorem witness_OnlyAnswersChangeMemory :
    answerless (.talkWrite 2 3 4 (level 1)) = true ∧
      exec (.talkWrite 2 3 4 (level 1)) floor = .next (ran (.talkWrite 2 3 4 (level 1)) floor) := ⟨rfl, ran_spec ..⟩

/-- A floor with a restart pending and a clearing waiting. -/
def restarting : State := { floor with plan.restart := some ⟨5, 1, 7⟩, plan.clears := [⟨6, 0, 8⟩] }

theorem witness_FrameCloseAdvances :
    floor.running = true ∧ floor.plan.restart.isSome = false ∧ restarting.running = true ∧ restarting.plan.restart.isSome = true := by
  decide

/-- The defaults of the floor record lie in their ranges (R180). -/
theorem floorDefault_ok : ({} : FloorRec).Ok := by
  refine ⟨by decide, by decide, by decide, by decide, by decide, ?_, ?_⟩
  · intro k; match k with | 0 | 1 | 2 | _ + 3 => exact ⟨(by decide : 16 ≤ 256), (by decide : 256 ≤ 1024)⟩
  · intro c; cases c <;> decide

/-- A close at which P becomes 99, and one that clears the counts. -/
theorem witness_FrameCloseSources :
    (floor.running = true ∧ floor.plan.staging = [] ∧ floor.plan.restart = none ∧ (ran (.frameClose order) floor).P = 99) ∧
      ({ floor with plan.clears := [⟨6, 0, 8⟩] } : State).running = true
        ∧ State.running { floor with src.snapPending := [⟨5, 1, 7⟩] } = true := by
  decide +kernel

/-- The fields of Closed at P = 99: a source PRESENT, one CONCEALED, two SILENT, a TONE and a disabled source; an onset of 2 of 3 that
is due and one that is not; a loud and a quiet frame with the flag on, the last at hang counter 1; and a guard run at its limit. -/
theorem witness_Closed :
    ((floor.source 40).intake = true ∧ (floor.source 40).tag (99 % 8) = some 99) ∧
    (let x : Source := { source40 with tags := ⟨[(2, some 98)]⟩ }
     x.intake = true ∧ x.tag (99 % 8) ≠ some 99 ∧ x.record.conceal = .holdOne ∧ x.tag (98 % 8) = some 98) ∧
    ((floor.source 60).intake = true ∧ (floor.source 60).tag (99 % 8) ≠ some 99 ∧ (floor.source 60).tag (98 % 8) ≠ some 98) ∧
    (let x : Source := { tags := ⟨[(2, some 98)]⟩, record := { enabled := true, conceal := .never } }
     x.intake = true ∧ x.tag (99 % 8) ≠ some 99 ∧ x.record.conceal = .never) ∧
    ((floor.source 41).record.enabled = true ∧ (floor.source 41).record.kind = .tone ∧ (floor.source 0).record.enabled = false) ∧
    (OnsetDue .twoOf3 [true, false, true] ∧ ¬ OnsetDue .twoOf3 [true, false, false, true] ∧ source40.det.flag = false) ∧
    ((talking 3 1).det.flag = true ∧ (talking 3 1).record.threshold = 500 ∧ (talking 3 1).det.hang - 1 = 0) ∧
    (talking 3 1).record.guardLimit ≤ (talking 3 1).det.guardRun + 1 := by
  refine ⟨?_, ?_, ?_, ?_, ?_, ⟨?_, ?_, ?_⟩, ?_, ?_⟩ <;> first | decide +kernel | (unfold OnsetDue; decide +kernel)

/-- With a clearing waiting, and without, where the result is the second notice of ring 0 or the first of ring 1. -/
theorem witness_FrameCloseRestart :
    (restarting.running = true ∧ restarting.plan.staging = [] ∧ restarting.plan.restart.isSome) ∧
    (let s : State := { floor with plan.restart := some ⟨5, 1, 7⟩, plan.floor.routeSource := 3 }
     s.path.active = true ∧ s.plan.floor.route .floor = 0 ∧ s.plan.restart = some ⟨5, 1, 7⟩ ∧ s.plan.clears = [] ∧
       s.plan.floor.route .source ≠ 1 ∧ (s.lineAt 7).record.enabled = true) ∧
    ({} : FloorRec).Ok := ⟨by decide, by decide +kernel, floorDefault_ok⟩

/-- A close that serves both images, one at which both are being written, and one that carries out a restart with a source staged. -/
theorem witness_ImagesCaptured :
    (let s : State := { floor with src.snapPending := [⟨5, 1, 7⟩], notice.imagePending := [⟨6, 0, 8⟩] }
     s.running = true ∧ s.path.active = true ∧ decide (s.src.snapPending ≠ [] ∧ s.src.levelImage = none) = true ∧
       decide (s.notice.imagePending ≠ [] ∧ s.notice.image = none) = true ∧
       decide (floor.src.snapPending ≠ [] ∧ floor.src.levelImage = none) = false) ∧
    (let s : State := { restarting with plan.staging := [⟨296, bytes [1], false⟩] }
     s.running = true ∧ s.plan.restart.isSome = true ∧ recordId 296 = some (.source 40) ∧
       ∀ e ∈ s.plan.staging, recordId e.record ≠ some (.source 41)) := by decide +kernel

/-- A floor in a time mode, at a frame-in-second, with the fresh mark. -/
def timed (m : TimeMode) (frame : Nat) (fresh : Bool) : State :=
  { floor with plan.floor.timeMode := m, recorder.frameInSecond := frame, recorder.fresh := fresh, recorder.staged := some 86400 }

theorem witness_FrameCloseFloorTime :
    ((timed .strobe 0 true).running = true ∧ (timed .strobe 0 true).plan.staging = [] ∧
      (timed .strobe 0 true).plan.floor.timeMode = .strobe ∧ (timed .strobe 0 true).recorder.fresh = true) ∧
    ((timed .strobe 999 false).plan.floor.timeMode = .strobe ∧ (timed .strobe 999 false).recorder.fresh = false) ∧
    ((timed .frames 998 false).plan.floor.timeMode = .frames ∧ (timed .frames 998 false).recorder.frameInSecond < 999) ∧
    (timed .frames 999 false).plan.floor.timeMode = .frames ∧ 999 ≤ (timed .frames 999 false).recorder.frameInSecond := by decide

theorem witness_ClockPins :
    floor.clockRuns = true ∧ ({ floor with src.clockLost := true } : State).clockRuns = false ∧
      (timed .strobe 999 false).running = true ∧ (timed .strobe 999 false).plan.floor.timeMode = .strobe ∧
      (timed .frames 999 false).running = true ∧ (timed .frames 999 false).plan.floor.timeMode = .frames ∧
      (ran .resetAssert floor).running = false := by decide +kernel

/-- The floor with turret 3 one close from its loss and a line at each count. -/
def counting (run : Nat) : State :=
  { ((((floor.setTurret 3 { floor.turret 3 with run := run }).setTurret 5 { floor.turret 5 with run := 3 }).setLine 7
        { lineIn .inboundRing [] with ringRun := 2999 }).setLine 9
        { record := line9, bank0 := [some ⟨3, false⟩], status := .releasing, releaseTimer := 1999 }).setGroup 6
        { box6 with members := box6.members.map fun m => { m with keyed := true, keyedRun := 5 } } with
    ring := { programs := ⟨[(2, program2)]⟩, players := ⟨[(7, { phase := .stepping, left := 1 })]⟩ }
    recorder := { channels := ⟨[(0, ⟨some (.line 9), 0⟩), (5, ⟨some (.group 6), 0⟩)]⟩, status := .outage } }

/-- A close that loses turret 3, and one that loses none while each count reaches its limit. -/
theorem witness_FrameCloseCounts :
    ((counting 49).running = true ∧ (counting 49).plan.staging = [] ∧ (counting 49).plan.restart = none ∧
      ((counting 49).turret 3).record.enabled = true ∧ ((counting 49).turret 3).presence = .present ∧
      (counting 49).plan.floor.lossLimit ≤ min 65535 (((counting 49).turret 3).run + 1)) ∧
    (counting 48).running = true ∧
    (∀ u < 64, ¬ (((counting 48).turret u).record.enabled = true ∧ ((counting 48).turret u).presence = .present ∧
      (counting 48).plan.floor.lossLimit ≤ min 65535 (((counting 48).turret u).run + 1))) ∧
    ((counting 48).lineAt 7).status = .inboundRing ∧ ((counting 48).lineAt 7).ringRun + 1 = ((counting 48).lineAt 7).record.ringLimit * 100 ∧
    ((counting 48).lineAt 9).status = .releasing ∧
    (counting 48).plan.floor.releaseLimit ≤ ((counting 48).lineAt 9).releaseTimer + 1 ∧
    (((counting 48).groupAt 6).members.map (·.turret)).Nodup := by decide +kernel

/-- The fields of Played: a player in each phase of program 2, with the step that it takes. -/
theorem witness_Played :
    (program2.steps[0]? = some ⟨3, some 360, true⟩ ∧ program2.steps[1]? = some ⟨2, none, false⟩ ∧ program2.steps[2]? = none ∧
      program2.ending = .repeats ∧ ({} : Program).steps = []) := by decide

/-- The recovery of an OUTAGE recorder with an empty ring, one still below the margin, and a channel whose line's RELEASING ends. -/
theorem witness_FrameCloseListing :
    (∀ c < 64, ∀ e < 64, ((counting 48).channel c).bound ≠ none →
      ((counting 48).channel c).bound = ((counting 48).channel e).bound → c = e) ∧
    (counting 48).recorder.status = .outage ∧
    min (counting 48).plan.floor.margin ((counting 48).recorder.cap - 1) ≤ (counting 48).recorder.free ∧
    ((counting 48).channel 0).bound = some (.line 9) ∧ ((counting 48).lineAt 9).record.enabled = true ∧
    ((counting 48).channel 5).bound = some (.group 6) ∧ (counting 48).path.active = true ∧
    (recording 63 []).recorder.free < min (recording 63 []).plan.floor.margin ((recording 63 []).recorder.cap - 1) := by
  decide +kernel

/-- The floor with source 40 GUARDED. -/
def guarded40 : State := floor.setSource 40 { source40 with det := { flag := true, guardRun := 4, guarded := true } }

/-- A source record out of range, a line record whose line is busy, and one whose line is not, and a record that disables a GUARDED
source. -/
theorem witness_StagingTaken :
    recordId 296 = some (.source 40) ∧ (RecordId.source 40).inRange floor (bytes [1, 9]) = false ∧
      recordId 1031 = some (.line 7) ∧ (RecordId.line 7).inRange floor 0 = true ∧ busy (joined7 .connected) (.line 7) = true ∧
      busy floor (.line 7) = false ∧ recordId 0 = some .floor ∧ busy floor .floor = false ∧
      (RecordId.floor).inRange floor 0 = true ∧ (RecordId.source 40).inRange guarded40 0 = true ∧
      busy guarded40 (.source 40) = false ∧ (guarded40.source 40).record.enabled = true ∧
      (guarded40.source 40).det.guarded = true ∧ (parseSource 0).map (·.enabled) = some false := by decide +kernel

/-- The edits of StagingTaken: a line enabled, changed and disabled, and one whose far source is on the bus; and a group in the same
way, with one feed in place of another. -/
theorem witness_StagingTaken_edits :
    (let lineOf (far : Nat) := { line9 with far := far, out := 210 }
     let batch (es : List Edit) : Option EditRefusal := match floor.mix.batch true es with | .ok _ => none | .error e => some e
     (parseLine (bytes [1, 1, 1, 0, 0x2E, 1, 210, 0, 0, 64])).map (fun r => (r.enabled, r.far, r.out, r.rxGain)) =
         some (true, 302, 210, 16384) ∧
       batch (lineAdds 8 (lineOf 301)) = none ∧ batch (lineChanges 7 line7 { line7 with rxGain := 1 }) = none ∧
       batch (lineAdds 7 (lineOf 300)) = some .duplicate ∧ busy floor (.line 8) = false ∧ busy floor (.line 9) = false ∧
       (floor.lineAt 9).record.enabled = true ∧ (floor.lineAt 8).record.enabled = false ∧
       (parseGroup (bytes [1, 0, 2, 0, 0, 0, 1])).map (fun r => (r.enabled, r.feeds.length)) = some (true, 1) ∧
       batch (feedAdds 4 [⟨320, 16384, 210⟩]) = none ∧ busy floor (.group 4) = false) := by decide +kernel

/-- A close with three records staged, which loses no turret, and one with a record staged that carries out a restart. -/
theorem witness_StagingAtClose :
    (let s : State := { floor with src.turrets := {}, plan.staging := [⟨296, 0, false⟩, ⟨1031, 0, false⟩, ⟨0, 0, false⟩] }
     s.running = true ∧ s.plan.restart = none ∧ order.loss ≠ .beforeStaging ∧
       ∀ u < 64, ¬ s.Losing s.closingFloor.lossLimit u) ∧
    (let s : State := { restarting with plan.staging := [⟨296, bytes [1], false⟩] }
     s.running = true ∧ s.plan.restart.isSome = true) := by
  unfold State.Losing; decide +kernel

/-- The mark clear with free 0 and 1, and set with free 1 and 2. -/
theorem witness_NoticeRings :
    (let r (c : Nat) (m : Bool) : Ring := { cap := 16, producer := 3, consumer := c, published := 3, mark := m, discards := 7 }
     (r 4 false).free = 0 ∧ (r 5 false).free = 1 ∧ (r 5 true).free = 1 ∧ (r 6 true).free = 2 ∧
       floor.path.active = true) := by decide +kernel

/-- d = 0 at position 2 and d = 7 at position 1, with P = 98 and L = 2. -/
theorem witness_ArrivalClasses :
    (1 ≤ floor.src.lag ∧ floor.src.lag ≤ 6) ∧ 0 = (2 + 8 - floor.P.toNat % 8) % 8 ∧ 7 = (1 + 8 - floor.P.toNat % 8) % 8 ∧
      floor.arrivalClass 4 = .onTime := by decide +kernel

/-- The floor with the queue of master 2 full. -/
def full : State := { floor with path.queues := ⟨[(2, List.replicate 16 ⟨0, 1, .ok⟩)]⟩ }

/-- Outside the floor region, a home read inside it, a full queue, and the first inbound cell, the last request cell and the last record of
the plan area, which a block takes, beside an outbound cell and the cell after the consumer cells, which none takes. -/
theorem witness_ForwardedTaken :
    (floor.queueFull 2 = false ∧ floor.path.decodes (0x3FFFFFE0 : BitVec 32).toNat = false) ∧
      (floor.queueFull 2 = false ∧ forwardedArea ((0x40080000 : BitVec 32).toNat % 2 ^ 24) .read = true) ∧
      full.queueFull 2 = true ∧ floor.path.decodes (0x40098000 : BitVec 32).toNat = true ∧
      handedTo 0x098000 = some (.inbound 0) ∧ handedTo 0x09BFE0 = some (.request 255) ∧ handedTo 0x0AFFE0 = some (.plan 2047) ∧
      handedTo 0x098020 = none ∧ handedTo 0x09C0A0 = none := by decide +kernel

/-- A forwarded burst and one of the part's own, both waiting. -/
def traffic : State := ran (.homeRead 3 3 0) (ran (.forwardedBurst (.taken 2 0x10000020 .read .later)) floor)

/-- ForwardedTaken, on what the memory side presents. -/
theorem witness_ForwardedTaken_presented :
    (floor.path.ownWait = [] ∧ floor.path.fwdWait = []) ∧
      (traffic.path.fwdWait ≠ [] ∧ traffic.path.lastOwn = true) ∧
      ((ran (.forwardedBurst .presented) traffic).path.ownWait ≠ [] ∧
        (ran (.forwardedBurst .presented) traffic).path.fwdWait = []) := by decide +kernel

/-- A read and a write of master 2, forwarded and unanswered: burst 0 and burst 1. -/
def forwarded : State :=
  ran (.forwardedBurst (.taken 2 0x40098000 (fullWrite 1) .later)) (ran (.forwardedBurst (.taken 2 0x10000020 .read .later)) floor)

/-- Two forwarded bursts, and the part's own home write, which an entry waits for; and a write of an outbound cell, which nothing
waits for. -/
theorem witness_MemoryAnswers :
    (let f : Flight := { id := 0, addr := 0x10000020, op := .read, owner := .master 2 0 .nobody }
     let g : Flight := { id := 1, addr := 0x40098000, op := fullWrite 1, owner := .master 2 1 (.inbound 0) }
     (forwarded.path.unanswered.filter fun g => !g.owner.isOwn)[0]? = some f ∧ forwarded.path.Alone f ∧
       (forwarded.path.unanswered.filter fun g => !g.owner.isOwn)[1]? = some g ∧ forwarded.path.Alone g) ∧
    (let f : Flight := { id := 1, addr := 0x40082880, op := fullWrite (level 1), owner := .homeWrite 40 2 0 }
     let s := ran (.talkWrite 2 3 4 (level 1)) floor
     (s.path.unanswered.filter fun g => g.owner.isOwn)[0]? = some f ∧ s.path.Alone f ∧ f.owner.awaited = true) ∧
    (let f : Flight := { id := 0, addr := 0x400981E0, op := fullWrite 1, owner := .signal 7 }
     let s : State := { floor with path.presented := [f] }
     (s.path.unanswered.filter fun g => g.owner.isOwn)[0]? = some f ∧ s.path.Alone f ∧ f.owner.awaited = false ∧
       f.owner ≠ .levelImage ∧ f.owner ≠ .stateImage) ∧
    (let f : Flight := ⟨0, 0x400B1BE0, fullWrite 0, .levelImage⟩
     (lastBurst.path.unanswered.filter fun g => g.owner.isOwn)[0]? = some f ∧ lastBurst.path.Alone f ∧
       f.owner.awaited = false ∧ lastBurst.LastOf f .levelImage ∧ lastBurst.src.levelImage.isSome = true) := by
  unfold PathSwitch.Alone State.LastOf; decide +kernel

/-- The first and the last byte of the image area's neighbours: the record ring, a view that is disabled, and a partial talk write. -/
theorem witness_BurstAnsweredError :
    floor.Room (2 : Fin 16) ∧ floor.path.decodes (0x40100000 : BitVec 32).toNat = true ∧
      areaOf ((0x40100000 : BitVec 32).toNat % 2 ^ 24) = .own ∧ fullWrite 1 ≠ .read ∧
      areaOf ((0x40000000 : BitVec 32).toNat % 2 ^ 24) = .views ∧
      floor.viewRefuses ((0x40000000 : BitVec 32).toNat % 2 ^ 24) .read = true ∧
      floor.viewRefuses ((0x4000C000 : BitVec 32).toNat % 2 ^ 24) (.write 1 1) = true :=
  ⟨room_quiet rfl 2, by decide +kernel, by decide +kernel, by decide, by decide +kernel, by decide +kernel, by decide +kernel⟩

/-- Position 4 of source 40 at F = 100 (ON_TIME), and the last of the window, position 0 (d = 6). -/
theorem witness_TalkAccepted :
    floor.Room (2 : Fin 16) ∧ (floor.view 3).record.enabled = true ∧ (floor.view 3).record.width = 1 ∧
      (4 : Fin 256).val / 8 < (floor.view 3).record.channels ∧ 40 = (floor.view 3).record.talkBase + (4 : Fin 256).val / 8 ∧
      (floor.source 40).intake = true ∧ floor.arrivalClass 4 = .onTime ∧ floor.arrivalClass 0 = .early :=
  ⟨room_quiet rfl 2, by decide +kernel⟩

/-- The floor with line 7 ringing at turret 3 alone, turret 12 LOST and its ringer slot with room for one term, in which a turret 11 of the
same mic and ringer slot is UNKNOWN. -/
def returning : State :=
  { floor.setLine 7 { lineIn .inboundRing [] with bank1 := [some ⟨11, true⟩] } with
    src.turrets := ⟨[(11, { record := { enabled := true, micR := some 48, slotRinger := 149 } }),
                     (12, { record := { enabled := true, micL := some 48, slotL := 48, slotRinger := 149 }, presence := .lost })]⟩
    mix.slots := ⟨[(149, { enabled := true, planned := List.replicate 6 ⟨.source 1, 1⟩,
                           dynamic := List.replicate 5 { term := ⟨.source 2, 1⟩, origin := .line } })]⟩
    ring.players := ⟨[(7, { phase := .starting, entry := some .farSeize, terms := [(3, 140)] })]⟩ }

/-- The fields of Heard (01 Turret presence, 05 Turrets during the ring): a frame of source 48 makes turrets 11 and 12 PRESENT; line 7
rings at 11, and its term at 12 is refused. Sources 47 and 48 come to the same. -/
theorem witness_Heard :
    returning.returning [48] = [11, 12] ∧ returning.returning [47, 48] = [11, 12] ∧ returning.returning [47] = [] ∧
      returning.returnAnswers returning.mix (returning.returnAsks [11, 12]) = [((11, 7), true), ((12, 7), false)] ∧
      (returning.returnNotices [11, 12]).map (fun n => (n.kind, n.object, n.turret, n.cause)) =
        [(.turretPresent, some 11, some 11, none), (.turretPresent, some 12, some 12, none),
         (.ringSilent, some 7, some 12, some .farSeize)] := by decide +kernel

/-- The two STALE positions, d = 0 and d = 7, of source 40, and the TONE source 41 on channel 1. -/
theorem witness_TalkDropped :
    floor.Room (2 : Fin 16) ∧ (floor.view 3).record.enabled = true ∧ (floor.view 3).record.width = 1 ∧
      (15 : Fin 256).val / 8 < (floor.view 3).record.channels ∧ (floor.source 40).intake = true ∧
      floor.arrivalClass 2 = .stale ∧ floor.arrivalClass 1 = .stale ∧
      41 = (floor.view 3).record.talkBase + (15 : Fin 256).val / 8 ∧ (floor.source 41).intake = false :=
  ⟨room_quiet rfl 2, by decide +kernel⟩

/-- A gather slot of group 0 of view 4 holding bursts 0 to 2 of position 4. -/
def gathering : State :=
  floor.setView 4 { floor.view 4 with slots := ⟨[(0, some { position := 4, bursts := ⟨[(0, 1), (1, 2), (2, 3)]⟩ })]⟩ }

/-- An empty slot, and a slot that another position displaces: place 16 is position 4, burst 0, and place 20 position 5, burst 0. -/
theorem witness_GatherStored :
    floor.Room (2 : Fin 16) ∧ gathering.Room (2 : Fin 16) ∧ (floor.view 4).record.enabled = true ∧ (floor.view 4).record.width = 4 ∧
      (16 : Fin 256).val / 8 < (floor.view 4).record.channels ∧
      ¬ (∀ k < 4, k ∈ (gatherInto ((floor.view 4).slots.get none 0) 4 0 (level 1)).bursts.keys) ∧
      ((gathering.view 4).slots.get none 0).isSome = true ∧
      ¬ (∀ k < 4, k ∈ (gatherInto ((gathering.view 4).slots.get none 0) 5 0 (level 1)).bursts.keys) :=
  ⟨room_quiet rfl 2, room_quiet rfl 2, by decide +kernel⟩

/-- Burst 3 of position 4, place 19, completes it. -/
theorem witness_GatherCompletes :
    gathering.Room (2 : Fin 16) ∧ (gathering.view 4).record.enabled = true ∧ (gathering.view 4).record.width = 4 ∧
      (19 : Fin 256).val / 8 < (gathering.view 4).record.channels ∧ (19 : Fin 256).val % (8 * 4) / 4 = 4 ∧
      (∀ k < 4, k ∈ (gatherInto ((gathering.view 4).slots.get none 0) 4 3 (level 1)).bursts.keys) :=
  ⟨room_quiet rfl 2, by decide +kernel⟩

theorem witness_HomeRead :
    floor.Room (2 : Fin 16) ∧ (floor.view 3).record.enabled = true ∧ (floor.view 3).record.width = 1 ∧
      (15 : Fin 256).val / 8 < (floor.view 3).record.channels := ⟨room_quiet rfl 2, by decide +kernel⟩

/-- Slot 12 with the TONE source to read, the clock lost, and slot 13, whose recipe is disabled. -/
theorem witness_ListenRead :
    floor.Room (2 : Fin 16) ∧ (floor.view 3).record.enabled = true ∧ (1 : Fin 256).val < (floor.view 3).record.channels ∧
      floor.src.clockLost = false ∧ readsOf floor (slotWork floor 12) ≠ [] ∧ readsOf floor (slotWork floor 13) = [] ∧
      ({ floor with src.clockLost := true } : State).Room (2 : Fin 16) :=
  ⟨room_quiet rfl 2, by decide +kernel, by decide +kernel, by decide, by decide +kernel, by decide +kernel, room_quiet rfl 2⟩

theorem witness_SourceHomeWrite :
    floor.Room (2 : Fin 16) ∧ floor.path.Clear (floor.path.address (homeOffset 40 7)) ∧ (floor.source 40).intake = true ∧
      (floor.source 41).intake = false ∧ (floor.source 383).intake = false :=
  ⟨room_quiet rfl 2, (way_quiet rfl (2 : Fin 16) _).2.2, by decide +kernel⟩

/-- The first and the last of the taken cells: an inbound cell and the record consumer cell. -/
theorem witness_PartialCellWrite :
    floor.Room (2 : Fin 16) ∧ floor.path.decodes (0x40098000 : BitVec 32).toNat = true ∧
      areaOf ((0x40098000 : BitVec 32).toNat % 2 ^ 24) = .cell (.inbound 0) ∧
      areaOf ((0x4009C080 : BitVec 32).toNat % 2 ^ 24) = .cell .recordConsumer ∧ (1 : Enables) ≠ Enables.full ∧
      floor.path.Clear (0x40098000 : BitVec 32).toNat :=
  ⟨room_quiet rfl 2, by decide +kernel, by decide +kernel, by decide +kernel, by decide, fun _ h => by cases h⟩

/-- A restart pending. -/
theorem witness_RequestsRefused_restarting :
    requestOf (.setTime head 1) = some (head, .setTime) ∧ restarting.Way head.master (requestOffset head.cell) ∧
      head.ring.toNat ≤ 3 ∧ restarting.plan.restart.isSome = true := ⟨rfl, way_quiet rfl _ _, by decide, rfl⟩

/-- Kinds 11 and 12, and reply rings 3 and 4. -/
theorem witness_RequestsRefused :
    floor.Way (9 : Fin 16) (requestOffset (5 : Fin 256)) ∧ 12 ≤ field (bytes [12, 3]) 0 1 ∧ 3 < field (bytes [11, 4]) 1 1 ∧
      RequestKind.list[field (bytes [11, 3]) 0 1]? = some .floorRestart ∧ field (bytes [11, 3]) 1 1 ≤ 3 :=
  ⟨way_quiet rfl 9 _, by decide +kernel⟩

theorem witness_RefusedRequestsChangeNothing :
    (floor.lineKey 3 0 8).2 ≠ .done ∧ (floor.lineRelease 3 0 7).2 ≠ .done ∧ (floor.lineHold 3 0 7).2 ≠ .done ∧
      (floor.groupJoin ⟨3, 4, 9, false, 0, 0, 0⟩).2 ≠ .done ∧ (floor.groupLeave 5 6).2 ≠ .done ∧ (floor.talkKey 5 6).2 ≠ .done ∧
      (floor.talkUnkey 5 6).2 ≠ .done := by decide +kernel

/-- Floors on which a LINE_KEY of turret 3's handset L fails at checks 4 to 8, each by its condition alone. -/
def keyBusy : List (State × Nat × Code) :=
  let full : Table Channel := ⟨(List.range 64).map fun c => (c, { bound := some (.line (64 + c)) })⟩
  [(floor.setOccupancy 6 (.group 4), 4, .handsetBusy),
   (floor.setLine 7 (lineIn .outOfService []), 5, .outOfService),
   (floor.setLine 7 (lineIn .connected [24]), 6, .busy),
   (floor.setLine 7 (lineIn .releasing []), 6, .state),
   (floor.setSlot 12 { planned := List.replicate 12 ⟨.source 40, 1⟩ }, 7, .termsFull),
   ({ floor with mix.buses := floor.mix.buses.set 7 { list := [{ contrib := ⟨12, 16384, .opened⟩ }] } }, 7, .badRequest),
   ({ floor with recorder.status := .outage }, 8, .recorderDown),
   ({ floor with recorder.channels := full }, 8, .noRecordChannel)]

/-- Line 8, which is disabled; turret 63, which is UNKNOWN; turret 5, which is no appearance; checks 4 to 8; and a handset already
joined. -/
theorem witness_LineKeyChecks :
    floor.RequestWay head ∧ FailsFirst (floor.KeyFails 3 0 8) 1 .badRequest ∧ FailsFirst (floor.KeyFails 64 0 7) 1 .badRequest ∧
    FailsFirst (floor.KeyFails 63 1 7) 2 .turretAbsent ∧ FailsFirst (floor.KeyFails 5 0 7) 3 .notAppearance ∧
    (∀ e ∈ keyBusy, FailsFirst (e.1.KeyFails 3 0 7) e.2.1 e.2.2 ∧ 6 ∉ (e.1.lineAt 7).joined) ∧
    ((∀ i ≤ 3, ∀ c, ¬ (joined7 .connected).KeyFails 3 0 7 i c) ∧ 6 ∈ ((joined7 .connected).lineAt 7).joined) := by
  refine ⟨requestWay_quiet rfl rfl, failsFirst_of (keyFails_iff _ _ _ _) ?_ ?_, failsFirst_of (keyFails_iff _ _ _ _) ?_ ?_,
    failsFirst_of (keyFails_iff _ _ _ _) ?_ ?_, failsFirst_of (keyFails_iff _ _ _ _) ?_ ?_, ?_, ?_, ?_⟩
  all_goals try decide +kernel
  · have h : ∀ e ∈ keyBusy, (keyCode e.1 3 0 7 e.2.1 = some e.2.2 ∧ ∀ j < e.2.1, keyCode e.1 3 0 7 j = none) ∧
        6 ∉ (e.1.lineAt 7).joined := by decide +kernel
    exact fun e he => ⟨failsFirst_of (keyFails_iff _ _ _ _) (h e he).1.1 (h e he).1.2, (h e he).2⟩
  · intro i hi c
    have h : ∀ i < 4, keyCode (joined7 .connected) 3 0 7 i = none := by decide +kernel
    rw [keyFails_iff, h i (by omega)]; simp

/-- A batch of edits is accepted. -/
def accepted (s : State) (es : List Edit) : Bool :=
  match s.mix.batch false es with
  | .ok _ => true
  | .error _ => false

theorem accepted_ok {s : State} {es : List Edit} (h : accepted s es = true) : ∃ mx, s.mix.batch false es = .ok mx := by
  unfold accepted at h; split at h
  · exact ⟨_, ‹_›⟩
  · cases h

/-- The floor with handset 6 on CONNECTED line 7 and no room in its outbound slot. -/
def crowded : State :=
  { joined7 .connected with mix.slots := (joined7 .connected).mix.slots.set 200 { planned := List.replicate 12 ⟨.source 40, 1⟩ } }

/-- The floor with every channel of the pool held. -/
def poolFull : State := { floor with recorder.channels := ⟨(List.range 64).map fun c => (c, { bound := some (.line (64 + c)) })⟩ }

/-- Where handset 6 keys a line: its hypotheses on a state and a line. -/
def keyable (s : State) (n : Nat) : Bool :=
  (List.range 9).all (fun i => (keyCode s 3 0 n i).isNone) && !(s.lineAt n).joined.contains 6 && s.occupancy 6 != .line n &&
    accepted s (s.keyBatch 3 0 n)

theorem keyable_spec {s : State} {n : Nat} (hp : s.path = quiet) (hr : s.plan.restart = none) (h : keyable s n = true) :
    s.RequestWay head ∧ (∀ i c, ¬ s.KeyFails 3 0 n i c) ∧ 6 ∉ (s.lineAt n).joined ∧ s.occupancy 6 ≠ .line n ∧
      ∃ mx, s.mix.batch false (s.keyBatch 3 0 n) = .ok mx := by
  simp only [keyable, Bool.and_eq_true, List.all_eq_true, List.mem_range, Option.isNone_iff_eq_none, Bool.not_eq_true',
    bne_iff_ne, ne_eq] at h
  exact ⟨requestWay_quiet hp hr, keyFails_none h.1.1.1, by simpa using h.1.1.2, h.1.2, accepted_ok h.2⟩

/-- Handset 6 keys IDLE line 7 when vacant, with channel 5 the next; line 9 from CONNECTED line 7, with room in its outbound slot and
without, from OUTBOUND_WAIT, and from FAR_CLEARED; and WANTED line 9 where the pool is empty. -/
theorem witness_LineKeyAccepted :
    (keyable floor 7 = true ∧ floor.ChannelFree 7 ∧ floor.NextChannel 5 ∧ ¬ floor.HoldsChannel (.line 7) ∧
      (floor.lineAt 7).record.mode = .required) ∧
    (∀ s ∈ [joined7 .connected, crowded, joined7 .outboundWait, joined7 .farCleared],
      keyable s 9 = true ∧ s.occupancy 6 = .line 7 ∧ (s.lineAt 7).joined.filter (· != 6) = [] ∧
        (s.lineAt 7).record.hold.isSome = true) ∧
    ((crowded.slot (crowded.lineAt 7).record.out).occupancy = 12 ∧ ((joined7 .connected).slot 200).occupancy < 12) ∧
    (keyable poolFull 9 = true ∧ poolFull.ChannelFree 9 ∧ (poolFull.lineAt 9).record.mode = .wanted ∧
      ¬ poolFull.HoldsChannel (.line 9) ∧ poolFull.PoolEmpty) ∧ ChannelsExclusive floor := by
  refine ⟨?_, by decide +kernel, by decide +kernel, ?_, ?_⟩
  · unfold State.ChannelFree State.NextChannel State.HoldsChannel; decide +kernel
  · unfold State.ChannelFree State.HoldsChannel State.PoolEmpty; decide +kernel
  · exact channelsExclusive_of (by decide +kernel)

theorem witness_LineRelease :
    (floor.RequestWay head ∧ lineFieldsOk floor 3 2 7 = false ∧ lineFieldsOk floor 3 1 7 = true ∧ 7 ∉ (floor.lineAt 7).joined) ∧
      (joined7 .connected).RequestWay head ∧ lineFieldsOk (joined7 .connected) 3 0 7 = true ∧
      6 ∈ ((joined7 .connected).lineAt 7).joined := by
  refine ⟨⟨requestWay_quiet rfl rfl, ?_⟩, requestWay_quiet rfl rfl, ?_⟩ <;> decide +kernel

/-- A CONNECTED line with two handsets joined. -/
def shared7 : State := (joined7 .connected).setLine 7 (lineIn .connected [6, 24])

theorem witness_LineHold :
    (floor.RequestWay head ∧ lineFieldsOk floor 64 0 7 = false ∧ lineFieldsOk floor 3 0 7 = true ∧ 6 ∉ (floor.lineAt 7).joined) ∧
    ((joined7 .farCleared).RequestWay head ∧ lineFieldsOk (joined7 .farCleared) 3 0 7 = true ∧
      6 ∈ ((joined7 .farCleared).lineAt 7).joined ∧ ((joined7 .farCleared).lineAt 7).joined.filter (· != 6) = [] ∧
      ((joined7 .farCleared).lineAt 7).status ≠ .connected) ∧
    (crowded.RequestWay head ∧ lineFieldsOk crowded 3 0 7 = true ∧ (crowded.lineAt 7).joined = [6] ∧
      (crowded.lineAt 7).status = .connected ∧ accepted crowded (leaveEdits crowded 7 6 ++ holdAdds (crowded.lineAt 7)) = false) ∧
    (shared7.RequestWay head ∧ lineFieldsOk shared7 3 0 7 = true ∧ 6 ∈ (shared7.lineAt 7).joined ∧
      (shared7.lineAt 7).joined.filter (· != 6) ≠ []) ∧
    ((joined7 .connected).RequestWay head ∧ lineFieldsOk (joined7 .connected) 3 0 7 = true ∧
      ((joined7 .connected).lineAt 7).joined = [6] ∧ ((joined7 .connected).lineAt 7).status = .connected ∧
      accepted (joined7 .connected) (leaveEdits (joined7 .connected) 7 6 ++ holdAdds ((joined7 .connected).lineAt 7)) = true) := by
  refine ⟨⟨requestWay_quiet rfl rfl, ?_⟩, ⟨requestWay_quiet rfl rfl, ?_⟩, ⟨requestWay_quiet rfl rfl, ?_⟩,
    ⟨requestWay_quiet rfl rfl, ?_⟩, requestWay_quiet rfl rfl, ?_⟩ <;> decide +kernel

/-- A state, a join, and the check at which it fails with its code: an attach of none of the three; a BOX that is not attached to
SPEAKER; a turret that is UNKNOWN; a member; a full group; a handset on a line; a full slot; a mic that is on the bus; an OUTAGE; and an
empty pool. -/
def joinsRefused : List (State × JoinRequest × Nat × Code) :=
  let intercom (x : Group) : State := floor.setGroup 4 x
  let j : JoinRequest := ⟨3, 4, 0, false, 0, 16384, 16384⟩
  [(floor, { j with attach := 3 }, 1, .badRequest), (floor, { j with group := 6 }, 1, .badRequest),
   (floor, { j with turret := 63 }, 2, .turretAbsent), (floor, { j with group := 6, attach := 2, slot := 255 }, 3, .alreadyMember),
   (intercom { record := { enabled := true },
               members := (List.range 16).map fun k =>
                 { turret := 20 + k, attach := .speaker, mic := none, slot := 0, listenGain := 0, talker := false, talkGain := 0 } },
    j, 4, .groupFull),
   (joined7 .connected, j, 5, .handsetBusy),
   (floor.setSlot 12 { planned := List.replicate 12 ⟨.source 40, 1⟩ }, j, 6, .termsFull),
   ({ floor with mix.buses := floor.mix.buses.set 132 { list := [{ contrib := ⟨12, 16384, .opened⟩ }] } }, j, 6, .badRequest),
   ({ intercom { record := { enabled := true, mode := .required } } with recorder.status := .outage }, j, 7, .recorderDown),
   ({ intercom { record := { enabled := true, mode := .required } } with recorder := poolFull.recorder }, j, 7, .noRecordChannel)]

/-- Each check, and joins that commit: by handset L and by SPEAKER of an intercom with no mode, and of a WANTED one with the pool
empty. -/
theorem witness_GroupJoin :
    floor.RequestWay head ∧ (∀ e ∈ joinsRefused, FailsFirst (e.1.JoinFails e.2.1) e.2.2.1 e.2.2.2) ∧
    (∀ i c, ¬ floor.JoinFails ⟨3, 4, 0, false, 0, 16384, 16384⟩ i c) ∧
    (∀ i c, ¬ floor.JoinFails ⟨12, 4, 2, true, 255, 65535, 65535⟩ i c) ∧
    (let s := poolFull.setGroup 4 { record := { enabled := true, mode := .wanted } }
     (∀ i c, ¬ s.JoinFails ⟨3, 4, 0, false, 0, 16384, 16384⟩ i c) ∧ (s.groupAt 4).members = [] ∧ s.PoolEmpty ∧
       ¬ s.HoldsChannel (.group 4)) := by
  refine ⟨requestWay_quiet rfl rfl, ?_, joinFails_none (by decide +kernel), joinFails_none (by decide +kernel),
    joinFails_none (by decide +kernel), ?_⟩
  · have h : ∀ e ∈ joinsRefused, joinCode e.1 e.2.1 e.2.2.1 = some e.2.2.2 ∧ ∀ i < e.2.2.1, joinCode e.1 e.2.1 i = none := by
      decide +kernel
    exact fun e he => failsFirst_of (joinFails_iff _ _) (h e he).1 (h e he).2
  · unfold State.PoolEmpty State.HoldsChannel; decide +kernel

/-- Turret 64 and group 32 are out of range, turret 63 is no member of box 6, and turrets 3 and 20 are. -/
theorem witness_GroupLeave :
    floor.RequestWay head ∧ 63 < (64 : BitVec 8).toNat ∧ 31 < (32 : BitVec 8).toNat ∧ (floor.groupAt 6).member 63 = none ∧
      ((floor.groupAt 6).member 20).isSome = true := ⟨requestWay_quiet rfl rfl, by decide +kernel⟩

/-- A member of the intercom, a box during OUTAGE, and members with a key. -/
theorem witness_TalkKeys :
    floor.RequestWay head ∧ (floor.groupAt 6).member 63 = none ∧
    (let s := floor.setGroup 4 { record := { enabled := true }, members := box6.members }
     (s.groupAt 4).record.kind = .intercom ∧ ((s.groupAt 4).member 3).isSome = true) ∧
    (let s : State := { floor with recorder := { floor.recorder with status := .outage } }
     (s.groupAt 6).record.kind = .box ∧ (s.groupAt 6).record.mode = .required ∧ s.recorder.status = .outage) ∧
    ((floor.groupAt 6).member 3).map (·.talker) = some true ∧ (floor.groupAt 6).record.kind = .box ∧
      floor.recorder.status = .healthy := ⟨requestWay_quiet rfl rfl, by decide +kernel⟩

theorem witness_WaitingRequests : floor.RequestWay head := requestWay_quiet rfl rfl

/-- The held code again, a disabled line, and an enabled line that a FAULT or a SEIZE moves. -/
theorem witness_InboundSignal :
    floor.Way (1 : Fin 16) (inboundOffset (127 : Fin 128)) ∧
      (floor.lineAt 7).inbound = (Signal.list[field (bytes [0]) 0 1]?).getD .fault ∧
      ((floor.lineAt 127).inbound ≠ (Signal.list[field (bytes [1]) 0 1]?).getD .fault ∧ (floor.lineAt 127).record.enabled = false) ∧
      ((floor.lineAt 7).inbound ≠ (Signal.list[field (bytes [255]) 0 1]?).getD .fault ∧ (floor.lineAt 7).record.enabled = true) :=
  ⟨way_quiet rfl 1 _, by decide +kernel⟩

/-- InboundSignal, by the clauses of a change: a ring that starts and one that stops, an outbound state that changes and one that stays,
a FAULT with a handset joined, and a code that moves nothing. -/
theorem witness_InboundSignal_moves :
    ((floor.lineAt 7).record.enabled = true ∧ (floor.lineAt 7).status.signalled .seize = .inboundRing) ∧
    (LineStatus.inboundRing.signalled .clear = .idle ∧ (lineIn .inboundRing []).inbound ≠ .seize) ∧
    ((LineStatus.connected.signalled .clear).outbound ≠ LineStatus.connected.outbound) ∧
    ((LineStatus.outboundWait.signalled .seize).outbound = LineStatus.outboundWait.outbound) ∧
    ((joined7 .connected).Way (1 : Fin 16) (inboundOffset (7 : Fin 128)) ∧ ((joined7 .connected).lineAt 7).joined = [6] ∧
      ((joined7 .connected).lineAt 7).inbound ≠ .fault ∧ LineStatus.connected.signalled .fault = .outOfService) ∧
    LineStatus.held.signalled .seize = .held :=
  ⟨by decide +kernel, by decide, by decide, by decide, ⟨way_quiet rfl 1 _, by decide +kernel⟩, rfl⟩

/-- An index one below each capacity, and one at it; and a partial write of the record consumer cell. -/
theorem witness_ConsumerCells :
    floor.Way (9 : Fin 16) recordConsumerOffset ∧ floor.Way (9 : Fin 16) (noticeConsumerOffset (3 : Fin 4)) ∧
      field (bytes [255, 15]) 0 4 < floor.recorder.cap ∧ ¬ field (bytes [0, 16]) 0 4 < floor.recorder.cap ∧
      field (bytes [255]) 0 4 < (floor.noticeRing 3).cap ∧ ¬ field (bytes [0, 1]) 0 4 < (floor.noticeRing 3).cap ∧
      (0x4009C080 : BitVec 32).toNat = floor.path.address recordConsumerOffset ∧ (1 : Enables) ≠ Enables.full :=
  ⟨way_quiet rfl 9 _, way_quiet rfl 9 _, by decide +kernel⟩

/-- A staging list of 64 entries, for sources 0 to 63. -/
def staged : State := { floor with plan.staging := (List.range 64).map fun i => { record := 256 + i, data := 0 } }

/-- The offset after the floor record, which is no record address; an address that is staged; a list with room; a list that is full; and
a partial write. -/
theorem witness_PlanWrites :
    floor.Way (9 : Fin 16) (planOffset (1 : Fin 2048)) ∧ (recordId 1).isNone = true ∧ (recordId 67).isSome = true ∧
      (∃ e ∈ staged.plan.staging, e.record = 319) ∧ (recordId 319).isSome = true ∧
      ((∀ e ∈ floor.plan.staging, e.record ≠ 67) ∧ floor.plan.staging.length < 64) ∧
      ((∀ e ∈ staged.plan.staging, e.record ≠ 67) ∧ 64 ≤ staged.plan.staging.length) ∧
      staged.Way (9 : Fin 16) (planOffset (67 : Fin 2048)) ∧ (0x7FFFFFFF : Enables) ≠ Enables.full ∧
      (0xC0000000 : Enables) ≠ Enables.full ∧ (0xC0000000 : Enables).getLsbD 30 = true ∧
      (0xC0000000 : Enables).getLsbD 31 = true :=
  ⟨way_quiet rfl 9 _, by decide, by decide, by decide +kernel, by decide, by decide +kernel, by decide +kernel, way_quiet rfl 9 _,
    by decide, by decide, by decide, by decide⟩

/-- A home write and a home read in flight, each with its entry. -/
theorem witness_HomeAnswers :
    (let s := ran (.talkWrite 2 3 4 (level 1)) floor
     let t := ran (.homeRead 2 3 4) floor
     let f : Flight := { id := 1, addr := 0x40082880, op := fullWrite (level 1), owner := .homeWrite 40 2 0 }
     let g : Flight := { id := 1, addr := 0x40082880, op := .read, owner := .homeRead 40 2 0 .little }
     (s.path.unanswered.filter fun g => g.owner.isHomeWrite)[0]? = some f ∧ s.path.Alone f ∧
       s.queue 2 = [{ id := 0, awaiting := 1, response := .ok }] ∧
       (t.path.unanswered.filter fun g => g.owner.isHomeRead)[0]? = some g ∧ t.path.Alone g ∧
       t.queue 2 = [{ id := 0, awaiting := 1, response := .ok }] ∧
       (floor.path.unanswered.filter fun g => g.owner.isHomeWrite)[0]? = none ∧
       (floor.path.unanswered.filter fun g => g.owner.isHomeRead)[0]? = none) := by
  unfold PathSwitch.Alone; decide +kernel

/-- The state of the listen read of slot 12, in flight. -/
def listening : State := ran (.listenRead 2 3 0) (floor.setSource 40 { source40 with status := .present })

theorem witness_ListenReadCompletes :
    (∃ l, listening.mix.listens[0]? = some l ∧ listening.ReadsAlone [l.job.id] ∧
      listening.queue l.master = [{ id := l.entry, awaiting := 1, response := .ok }]) ∧
      (listening.mix.listens.map fun k => k.job.id).Nodup := by
  refine ⟨⟨_, rfl, ?_, ?_⟩, ?_⟩
  · unfold State.ReadsAlone PathSwitch.EachAlone PathSwitch.Alone; decide +kernel
  · decide +kernel
  · decide +kernel

/-- A home read, a listen read's read, and an image burst, each alone in flight. -/
theorem witness_MemoryFault_uses :
    (let t := ran (.homeRead 2 3 4) floor
     let g : Flight := { id := 1, addr := 0x40082880, op := .read, owner := .homeRead 40 2 0 .little }
     (t.path.unanswered.filter fun g => g.owner.isOwn)[0]? = some g ∧ t.path.Alone g ∧
       t.queue 2 = [{ id := 0, awaiting := 1, response := .ok }]) ∧
    (((listening.path.unanswered.filter fun g => g.owner.isOwn)[0]?).map (·.owner) = some (.jobRead 40 0)) ∧
    (let f : Flight := { id := 0, addr := 0x400B1000, op := fullWrite 0, owner := .levelImage }
     let s : State := { floor with src.levelImage := some ⟨204, [], false⟩, path.ownWait := [f], path.nextId := 1 }
     (s.path.unanswered.filter fun g => g.owner.isOwn)[0]? = some f ∧ s.path.Alone f ∧ s.LastOf f .levelImage) ∧
    (let f : Flight := { id := 0, addr := 0x400B2000, op := fullWrite 0, owner := .stateImage }
     let g : Flight := { id := 1, addr := 0x400B2020, op := fullWrite 0, owner := .stateImage }
     let s : State := { floor with notice.image := some ⟨204, [], false⟩, path.ownWait := [f, g], path.nextId := 2 }
     s.path.Alone f ∧ ¬ s.LastOf f .stateImage ∧ ({ s with path.ownWait := [g] } : State).LastOf g .stateImage) := by
  unfold PathSwitch.Alone State.LastOf; decide +kernel

/-- A home write in flight, with the part active and the mark clear; with the mark set; and with RESET asserted since. -/
theorem witness_MemoryFault :
    (let s := ran (.talkWrite 2 3 4 (level 1)) floor
     let f : Flight := { id := 1, addr := 0x40082880, op := fullWrite (level 1), owner := .homeWrite 40 2 0 }
     (s.path.unanswered.filter fun g => g.owner.isOwn)[0]? = some f ∧ s.path.Alone f ∧ s.path.active = true ∧
       s.path.faultMark = false ∧ (ran .resetAssert s).path.active = false ∧
       ((ran .resetAssert s).path.unanswered.filter fun g => g.owner.isOwn)[0]? = some f ∧
       ({ s with path.faultMark := true } : State).path.faultMark = true) := by
  unfold PathSwitch.Alone; decide +kernel

/-- The record of box 6 with free space 1, and with free space 0, its channel still bound, or freed since; and a bound channel. -/
theorem witness_RecordPlaced :
    (recording 62 [listed 10]).path.active = true ∧ (recording 62 [listed 10]).recorder.records = [listed 10] ∧
      (recording 62 [listed 10]).ReadsAlone [10, 11] ∧ 1 ≤ (recording 62 [listed 10]).recorder.free ∧
      ((recording 62 [listed 10]).channel 5).bound = some (.group 6) ∧ (listed 10).freed = false ∧
      (recording 62 [{ listed 10 with freed := true }]).ReadsAlone [10, 11] ∧
      (recording 63 [{ listed 10 with freed := true }]).recorder.free = 0 ∧ (recording 63 [listed 10]).recorder.free = 0 ∧
      (recording 63 [listed 10]).ReadsAlone [10, 11] ∧ (recording 63 [listed 10]).recorder.status = .healthy := by
  unfold State.ReadsAlone PathSwitch.EachAlone PathSwitch.Alone; decide +kernel

/-- A close whose records are placed, a notice that can be published, and neither. -/
theorem witness_ProgressWrites :
    ((recording 63 []).path.active = true ∧ (recording 63 []).recorder.progressDue.isSome = true ∧
      (recording 63 []).path.EachAlone (fun f => match f.owner with | .record _ batch => batch == 1 | _ => false)) ∧
    (floor.path.active = true ∧ floor.recorder.progressDue = none ∧ (floor.noticeRing 3).canPublish 0 = false) ∧
    ((ran .clockLost floor).path.active = true ∧ ((ran .clockLost floor).noticeRing 0).canPublish 1 = true ∧
      (ran .clockLost floor).path.EachAlone (fun f => (match f.owner with
        | .notice ring _ => ring == 0
        | _ => false) && decide (some f.id ∈ ((ran .clockLost floor).noticeRing 0).unpublished.take
          (((ran .clockLost floor).noticeRing 0).toPublish 1)))) := by
  unfold PathSwitch.EachAlone PathSwitch.Alone; decide +kernel

theorem witness_ImagesDone :
    (let j : ImageJob := ⟨204, [⟨5, 1, 9⟩], false⟩
     let s : State := { floor with src.levelImage := some j, notice.image := some j }
     s.running = true ∧ s.src.levelImage = some j ∧ s.notice.image = some j ∧ s.path.EachAlone (fun f => f.owner == .levelImage) ∧
       s.path.EachAlone (fun f => f.owner == .stateImage) ∧ floor.src.levelImage = none ∧ floor.notice.image = none) := by
  unfold PathSwitch.EachAlone PathSwitch.Alone; decide +kernel

/-- Turret 3 at the loss limit 50, its handset L alone on line 7 in a state, a member of box 6 alone, which holds channel 6. -/
def losing (st : LineStatus) : State :=
  let s := (joined7 st).setGroup 6 { box6 with members := box6.members.take 1 }
  { s.setTurret 3 { floor.turret 3 with run := 50 } with
    recorder.channels := (floor.recorder.channels.set 5 ⟨some (.line 7), 0⟩).set 6 ⟨some (.group 6), 0⟩ }

/-- A run at the loss limit 50: the handset parks its line, or leaves it in OUTBOUND_WAIT; and a run below the limit. -/
theorem witness_TurretLost :
    (∀ st ∈ [LineStatus.connected, .outboundWait],
      (losing st).clockRuns = true ∧ ((losing st).turret 3).due (losing st).plan.floor.lossLimit = true ∧
        (losing st).occupancy 6 = .line 7 ∧ ((losing st).lineAt 7).joined = [6] ∧ (losing st).path.active = true ∧
        ((losing st).channel 5).bound = some (.line 7) ∧ ((losing st).groupAt 6).members.map (·.turret) = [3] ∧
        ((losing st).channel 6).bound = some (.group 6)) ∧
      ChannelsExclusive (losing .outboundWait) ∧ (floor.turret 5).due floor.plan.floor.lossLimit = false :=
  ⟨by decide +kernel, channelsExclusive_of (by decide +kernel), by decide +kernel⟩

/-- A loss that parks no line with a hold term, whose edits are then those of its handsets, memberships and ringer terms. -/
theorem witness_TurretLost_edits :
    ∀ n, (losing .outboundWait).occupancy 6 = .line n ∨ (losing .outboundWait).occupancy 7 = .line n →
      ((losing .outboundWait).lineAt n).status ≠ .connected := by
  have h6 : (losing .outboundWait).occupancy 6 = .line 7 := by decide +kernel
  have h7 : (losing .outboundWait).occupancy 7 = .vacant := by decide +kernel
  intro n h
  rw [h6, h7] at h
  simp only [Occupancy.line.injEq, reduceCtorEq, or_false] at h
  subst h; decide +kernel

/-- FrameCloseCounts and FrameCloseListing, at closes that lose turrets 3 and 5: the last handset leaves line 7, CONNECTED or in
OUTBOUND_WAIT, and box 6 loses its one member, both with a channel. -/
theorem witness_FrameCloseCounts_losses :
    ∀ st ∈ [LineStatus.connected, .outboundWait], (losing st).running = true ∧ (losing st).plan.staging = [] ∧
      (losing st).plan.restart = none ∧ (losing st).Loses (losing st).plan.floor.lossLimit [3, 5] ∧ HandsetsOk (losing st) ∧
      MembersOk (losing st) ∧ ChannelsExclusive (losing st) ∧ (losing st).LossFrees [3, 5] (.group 6) ∧
      (st = .outboundWait → (losing st).LossFrees [3, 5] (.line 7)) ∧ ((losing st).lineAt 7).staying [3, 5] = [] := by
  have h : ∀ st ∈ [LineStatus.connected, .outboundWait], MembersOk (losing st) ∧ HandsetsOk (losing st) := by
    intro st hst
    simp only [List.mem_cons, List.not_mem_nil, or_false] at hst
    rcases hst with rfl | rfl <;>
      exact agree7 (by decide +kernel) (by decide +kernel) (by decide +kernel) (by decide +kernel) (by decide +kernel) (by decide +kernel)
  have hu : ∀ st ∈ [LineStatus.connected, .outboundWait], ∀ u < 64, u ∈ [3, 5] ↔ (losing st).Losing (losing st).plan.floor.lossLimit u := by
    unfold State.Losing; decide +kernel
  intro st hst
  refine ⟨rfl, rfl, rfl, ⟨by decide, fun u => ⟨fun hm => ?_, fun hm => (hu st hst u hm.1).2 hm.2⟩⟩, (h st hst).2, (h st hst).1, ?_, ?_, ?_, ?_⟩
  · have : u < 64 := by simp at hm; omega
    exact ⟨this, (hu st hst u this).1 hm⟩
  all_goals
    simp only [List.mem_cons, List.not_mem_nil, or_false] at hst
    rcases hst with rfl | rfl
  · exact channelsExclusive_of (by decide +kernel)
  · exact channelsExclusive_of (by decide +kernel)
  all_goals first
    | (unfold State.LossFrees; decide +kernel)
    | (unfold State.LossFrees Line.Emptied; decide +kernel)
    | decide +kernel

/-- Each limit at its value, and one below it. -/
theorem witness_Timeouts :
    (let s := floor.setLine 7 { lineIn .inboundRing [] with ringRun := 3000 }
     s.clockRuns = true ∧ (s.lineAt 7).record.enabled = true ∧ (s.lineAt 7).status = .inboundRing ∧
       (s.lineAt 7).record.ringLimit ≠ 0 ∧ (s.lineAt 7).ringRun = (s.lineAt 7).record.ringLimit * 100) ∧
    (let s := floor.setLine 7 { lineIn .releasing [] with releaseTimer := 2000 }
     s.clockRuns = true ∧ (s.lineAt 7).record.enabled = true ∧ (s.lineAt 7).status = .releasing ∧
       s.plan.floor.releaseLimit ≤ (s.lineAt 7).releaseTimer) ∧
    (let m : Member := { turret := 3, attach := .speaker, mic := some 135, slot := 150, listenGain := 16384, talker := true,
                         talkGain := 16384, keyed := true, keyedRun := 6 }
     let s := floor.setGroup 6 { box6 with members := [m] }
     s.clockRuns = true ∧ (s.groupAt 6).member 3 = some m ∧ (s.groupAt 6).record.enabled = true ∧ (s.groupAt 6).record.kind = .box ∧
       (s.groupAt 6).record.keyLimit ≠ 0 ∧ m.keyed = true ∧ (s.groupAt 6).record.keyLimit < m.keyedRun) ∧
    ((floor.setLine 7 { lineIn .inboundRing [] with ringRun := 2999 }).lineAt 7).ringRun ≠ 30 * 100 ∧
    ((floor.setLine 7 { lineIn .releasing [] with releaseTimer := 1999 }).lineAt 7).releaseTimer < floor.plan.floor.releaseLimit ∧
    ((floor.groupAt 6).member 3).map (·.keyed) = some false := by decide +kernel

/-- A guard run at the guard limit, and one below it; a hang counter at 0 on a quiet frame, and one above it. -/
theorem witness_GuardAndHang :
    (let x := (floor.setSource 40 (talking 4 0)).source 40
     floor.clockRuns = true ∧ x.intake = true ∧ x.det.guarded = false ∧ x.record.guardLimit ≠ 0 ∧ x.det.flag = true ∧
       x.record.guardLimit ≤ x.det.guardRun ∧ x.det.hang = 0 ∧ x.det.history.head? = some false) ∧
    (let x := (floor.setSource 40 (talking 3 1)).source 40
     x.det.guardRun < x.record.guardLimit ∧ x.det.hang ≠ 0) ∧ (floor.source 41).intake = false := by decide +kernel

/-- A player with no frames left: with a next step; at the last step of a program that repeats; at the last of one that holds. -/
theorem witness_CadenceStepEnd :
    (let s := (floor.setLine 7 (lineIn .inboundRing [])).setPlayer 7 { phase := .stepping }
     s.clockRuns = true ∧ (s.player 7).phase = .stepping ∧ (s.player 7).left = 0 ∧
       (s.program (s.lineAt 7).record.program).steps[(s.player 7).index + 1]? = some ⟨2, none, false⟩ ∧
       program2.steps.length ≤ 1 + 1 ∧ program2.ending = .repeats ∧ program2.steps[0]? = some ⟨3, some 360, true⟩) ∧
    (let s := (floor.setProgram 2 { program2 with ending := .holdLast }).setPlayer 7 { phase := .stepping, index := 1 }
     (s.player 7).left = 0 ∧ (s.program 2).steps.length ≤ (s.player 7).index + 1 ∧ (s.program 2).ending = .holdLast ∧
       (s.program 2).steps[(s.player 7).index]? = some ⟨2, none, false⟩) ∧
    (floor.player 7).phase ≠ .stepping := by decide +kernel

/-- The floor with a close waiting, and a byte of memory. -/
def waiting : State := { floor with pending := [.frameClose order], mem := [(0x40082880, 1)] }

theorem waiting_steps : step waiting = .next (ran (.frameClose order) { waiting with pending := [] }) :=
  ran_spec (.frameClose order) { waiting with pending := [] }

theorem witness_MemoryStaysCanonical : MemoryCanonical waiting.mem ∧ ∃ t, step waiting = .next t :=
  ⟨by decide, _, waiting_steps⟩

theorem witness_QueuesStayBounded : QueuesBounded waiting ∧ StagingOk waiting ∧ ∃ t, step waiting = .next t :=
  ⟨fun _ => Nat.zero_le 16, ⟨by decide, by decide, by decide⟩, _, waiting_steps⟩

theorem witness_HoldingsStayExclusive : ChannelsExclusive waiting ∧ MembersOk waiting ∧ ∃ t, step waiting = .next t := by
  have h : ∀ c < 64, ∀ e < 64, (waiting.channel c).bound ≠ none → (waiting.channel c).bound = (waiting.channel e).bound → c = e := by
    decide +kernel
  refine ⟨fun c hc e he o h1 h2 => h c hc e he (by simp [h1]) (h1.trans h2.symm), fun g => ?_, _, waiting_steps⟩
  by_cases h4 : g = 4
  · subst h4; decide +kernel
  · by_cases h6 : g = 6
    · subst h6; decide +kernel
    · have : waiting.groupAt g = {} := by simp [State.groupAt, waiting, floor, Table.get, lookup, h4, h6]
      rw [this]; exact ⟨List.nodup_nil, by simp⟩

/-- Line 7 CONNECTED with handset 6 of turret 3, its mic on the bus and its term in the slot. -/
def talking7 : State := { joined7 .connected with pending := [.frameClose order] }

theorem talking7_steps : step talking7 = .next (ran (.frameClose order) { talking7 with pending := [] }) :=
  ran_spec (.frameClose order) { talking7 with pending := [] }

/-- HoldingsStayExclusive, on the handsets: handset 6 is on line 7, and the members of box 6 speak by their speakers. -/
theorem witness_HoldingsStayExclusive_handsets : MembersOk talking7 ∧ HandsetsOk talking7 ∧ ∃ t, step talking7 = .next t :=
  have h := agree7 (s := talking7) (by decide +kernel) rfl rfl (by decide +kernel) (by decide +kernel) (by decide +kernel)
  ⟨h.1, h.2, _, talking7_steps⟩

/-- The same call as the far end's SEIZE and the channels of line 7 and box 6, both REQUIRED, leave it. -/
def lawful : State :=
  { talking7.setLine 7 { lineIn .connected [6] with inbound := .seize } with
    recorder.channels := ⟨[(0, ⟨some (.line 7), 0⟩), (1, ⟨some (.group 6), 0⟩)]⟩ }

/-- HoldingsStayExclusive, on signals, rings and the recording law: line 7 is CONNECTED on a held SEIZE, with channel 0; box 6 has
members and channel 1; and no player runs. -/
theorem witness_HoldingsStayExclusive_law :
    SignalsFollow lawful ∧ RingsFollow lawful ∧ HandsetsOk lawful ∧ RecordingLaw lawful ∧ ChannelsFollow lawful ∧
      ChannelsExclusive lawful ∧ ∃ t, step lawful = .next t := by
  have hl : ∀ n, n ≠ 7 → n ≠ 9 → lawful.lineAt n = {} := fun n h7 h9 => Table.get_unlisted (k := [7, 9]) _ (by decide +kernel) (by simp [h7, h9])
  have hg : ∀ g, g ≠ 4 → g ≠ 6 → lawful.groupAt g = {} := fun g h4 h6 => Table.get_unlisted (k := [4, 6]) _ (by decide +kernel) (by simp [h4, h6])
  have h7 : lawful.HoldsChannel (.line 7) := ⟨0, by decide, by decide +kernel⟩
  have h6 : lawful.HoldsChannel (.group 6) := ⟨1, by decide, by decide +kernel⟩
  have hc : ∀ o, lawful.HoldsChannel o → o = .line 7 ∨ o = .group 6 := by
    rintro o ⟨c, -, h⟩
    by_cases h0 : c = 0
    · subst h0; left; exact (Option.some.inj ((by decide +kernel : (lawful.channel 0).bound = some (.line 7)).symm.trans h)).symm
    · by_cases h1 : c = 1
      · subst h1; right; exact (Option.some.inj ((by decide +kernel : (lawful.channel 1).bound = some (.group 6)).symm.trans h)).symm
      · simp [lawful, State.channel, Table.get, lookup, h0, h1] at h
  refine ⟨fun n hn => ?_, fun n => ?_, (agree7 (by decide +kernel) rfl rfl (by decide +kernel) (by decide +kernel) (by decide +kernel)).2,
    ⟨fun n hn hm _ => ?_, fun g hm hx => ?_⟩, ⟨fun n hn => ?_, fun g hn => ?_⟩, channelsExclusive_of (by decide +kernel), _,
    ran_spec (.frameClose order) { lawful with pending := [] }⟩
  · by_cases e7 : n = 7
    · subst e7; decide +kernel
    · by_cases e9 : n = 9
      · subst e9; decide +kernel
      · rw [hl n e7 e9] at hn; exact absurd hn (by decide)
  · have hp : lawful.player n = {} := rfl
    rw [hp]
    by_cases e7 : n = 7
    · subst e7; decide +kernel
    · by_cases e9 : n = 9
      · subst e9; decide +kernel
      · rw [hl n e7 e9]; decide
  · by_cases e7 : n = 7
    · subst e7; exact h7
    · by_cases e9 : n = 9
      · subst e9; exact absurd hm (by decide +kernel)
      · rw [hl n e7 e9] at hn; exact absurd hn (by decide)
  · by_cases e6 : g = 6
    · subst e6; exact h6
    · by_cases e4 : g = 4
      · subst e4; exact absurd hm (by decide +kernel)
      · rw [hg g e4 e6] at hm; exact absurd hm (by decide)
  · rcases hc _ hn with h | h
    · cases h; decide +kernel
    · cases h
  · rcases hc _ hn with h | h
    · cases h
    · cases h; decide +kernel

/-- RangesStay, on the mix: the bus of line 7 with its far source and a mic, and slot 12 with two planned terms and one dynamic. -/
theorem witness_RangesStay_mix : MixOk talking7 ∧ ∃ t, step talking7 = .next t := by
  refine ⟨⟨fun u => ?_, fun b => ?_⟩, _, talking7_steps⟩
  · by_cases hu : u = 12
    · subst hu; decide +kernel
    · have : talking7.slot u = {} := by
        simp [State.slot, talking7, joined7, floor, State.setSlot, State.setOccupancy, State.setLine, Table.get, Table.set, place,
          lookup, hu]
      rw [this]; decide
  · by_cases hb : b = 7
    · subst hb; decide +kernel
    · have : talking7.bus b = {} := by
        simp [State.bus, talking7, joined7, floor, State.setSlot, State.setOccupancy, State.setLine, Table.get, Table.set, place,
          lookup, hb]
      rw [this]; exact ⟨Nat.zero_le _, Nat.zero_le _, List.nodup_nil, List.nodup_nil⟩

theorem witness_RangesStay : TimeOk waiting ∧ FloorOk waiting ∧ RingsOk waiting ∧ ∃ t, step waiting = .next t := by
  have hf : waiting.plan.floor.Ok := floorDefault_ok
  have hr : ∀ k, (waiting.noticeRing k).Ok := fun _ => (by decide : 16 ≤ 256 ∧ 256 ≤ 1024 ∧ 0 < 256 ∧ 0 < 256 ∧ 0 < 256 ∧ 0 ≤ 65535)
  exact ⟨Nat.zero_le 999, ⟨hf, by decide, by decide⟩, ⟨hf, hr, by decide, by decide, by decide, by decide⟩, _, waiting_steps⟩

/-- The hypotheses of SmoothedLevel: a gap of 7, one of -7, and a source that is enabled by a record. -/
theorem witness_SmoothedLevel :
    (32768 ≤ 32768 ∧ (393 : Nat) < 400 ∧ 400 ≤ 393 + 7) ∧ (floor.running = true ∧ (floor.source 40).intake = true) ∧
      source40.record.enabled = true ∧ (floor.source 383).record.enabled = false := by decide +kernel

/-- A record whose 94 bytes sum to 12345. -/
theorem witness_RecordChecksum :
    (let r := listed 0
     let a := bytes (List.replicate 32 255)
     let b := bytes (List.replicate 3 255 ++ [104])
     let h := encodeHeader r 0 a b
     ((List.range 30).map fun i => (byteOf h i).toNat).sum + byteSum a + byteSum b = 12345) := by decide +kernel

/-- Group 4 with an OPEN and a KEYED contributor permitted and one more than its cap. -/
def talkers : State :=
  { (((floor.setSource 10 { mic with det := { flag := true, smoothed := 900 } }).setSource 11
        { mic with det := { flag := true, smoothed := 1400 } }).setSource 12 { mic with det := { smoothed := 400 } }).setGroup 4
        { record := { enabled := true, cap := 2 }, latched := [12] } with
    mix.buses := ⟨[(132, { list := [{ contrib := ⟨10, 16384, .opened⟩ }, { contrib := ⟨11, 12288, .opened⟩ },
                                    { contrib := ⟨12, 16384, .keyed⟩ }] })]⟩ }

/-- The intercom of 03: the selection is s11 then s10, and s12, permitted by its key, is left out; a bus with no
candidate; and a record whose K is written above 6. -/
theorem witness_SelectionOfGroupBus :
    ((selection talkers 4).map (·.source) = [11, 10] ∧ ((talkers.bus 132).inForce.filter (permitted talkers 4)).length = 3) ∧
      (floor.bus 132).inForce.filter (permitted floor 4) = [] ∧ (parseGroup (bytes [1, 1, 7])).map (·.cap) = some 6 := by
  decide +kernel

theorem witness_MixArithmetic : ([(11, 12288), (10, 16384)].map (·.1) : List Nat).Nodup := by decide

end Sys2Proof.Tests
end

section
/-!
SUPPORT. What a close makes of a source, exactly: the restart, the counts asked to be cleared and the staged source records give the
source that playout decision finds (`State.sourceDecided`), and the rest of the close is `Source.close` on it
(`State.close_source`).
-/

namespace Sys2Proof.Machine

/-! ### The smoothed level -/

/-- One step of smoothing is the weighted mean of the old level and the frame level, rounded down (R33). -/
theorem smooth_eq (old m : Nat) : smooth old m = (7 * old + m) / 8 := by simp only [smooth]; omega

/-- One step of smoothing adds floor((m - old) / 8), never below 0 (R33). -/
theorem smooth_eq_fdiv (old m : Nat) : (smooth old m : Int) = old + Int.fdiv ((m : Int) - old) 8 := by
  rw [smooth_eq, Int.fdiv_eq_ediv_of_nonneg _ (by decide)]; omega

/-! ### The detection steps and the smoothed level -/

@[simp] theorem Detect.measure_smoothed (x : Detect) (r : SourceRec) (m : Nat) :
    (x.measure r m).smoothed = smooth x.smoothed m := rfl

@[simp] theorem Detect.expireHang_smoothed (x : Detect) : x.expireHang.smoothed = x.smoothed := by
  simp only [Detect.expireHang]; split <;> rfl

@[simp] theorem Detect.stepFlag_smoothed (x : Detect) (r : SourceRec) (m : Nat) :
    (x.stepFlag r m).smoothed = x.smoothed := by
  simp only [Detect.stepFlag]; (repeat' split) <;> simp

@[simp] theorem Detect.runGuard_smoothed (x : Detect) : x.runGuard.smoothed = x.smoothed := rfl

@[simp] theorem Detect.clearGuard_smoothed (x : Detect) (r : SourceRec) : (x.clearGuard r).smoothed = x.smoothed := by
  simp only [Detect.clearGuard]; split <;> rfl

@[simp] theorem Detect.raiseGuard_smoothed (x : Detect) (r : SourceRec) : (x.raiseGuard r).smoothed = x.smoothed := by
  simp only [Detect.raiseGuard]; split <;> rfl

/-- Of the detection steps of a close only the first moves the smoothed level (R33). -/
@[simp] theorem Detect.step_smoothed (x : Detect) (r : SourceRec) (m : Nat) :
    (x.step r m).smoothed = smooth x.smoothed m := by
  simp [Detect.step]

/-! ### A source's work at a close -/

@[simp] theorem Source.close_record (P : FrameNo) (x : Source) : (x.close P).record = x.record := by
  simp only [Source.close]; (repeat' split) <;> rfl

/-- A source taken for intake is detected on the level of its playout status (R31 to R33). -/
theorem Source.close_smoothed {x : Source} (P : FrameNo) (h : x.intake = true) :
    (x.close P).det.smoothed = smooth x.det.smoothed (x.levelFor P (x.decide P)) := by
  simp [Source.close, h]

/-! ### Source records -/

/-- A record that enables a source, or changes the kind of an enabled one, begins it afresh (R24, R42). -/
theorem Source.apply_enabling {x : Source} {r : SourceRec} (he : r.enabled = true)
    (hn : x.record.enabled = false ∨ r.kind ≠ x.record.kind) : x.apply r = { record := r } := by
  simp only [Source.apply, if_pos (And.intro he hn)]

/-- A source record keeps the smoothed level or begins it at 0. -/
theorem Source.apply_smoothed (x : Source) (r : SourceRec) :
    (x.apply r).det.smoothed = x.det.smoothed ∨ (x.apply r).det.smoothed = 0 := by
  simp only [Source.apply]; (repeat' split) <;> simp

/-- Records applied one after another keep the smoothed level or begin it at 0. -/
theorem Source.foldl_apply_smoothed (rs : List SourceRec) (x : Source) :
    (rs.foldl Source.apply x).det.smoothed = x.det.smoothed ∨ (rs.foldl Source.apply x).det.smoothed = 0 := by
  induction rs generalizing x with
  | nil => exact .inl rfl
  | cons r rs ih =>
    rcases ih (x.apply r) with hrest | hrest
    · rcases x.apply_smoothed r with h | h
      · exact .inl (hrest.trans h)
      · exact .inr (hrest.trans h)
    · exact .inr hrest

/-! ### The staging list and one source -/

/-- The record of source i that a staged entry carries, where its contents are in range. -/
def Staged.sourceRec (i : Nat) (e : Staged) : Option SourceRec :=
  if recordId e.record = some (.source i) then parseSource e.data else none

theorem Staged.sourceRec_of_ne {i : Nat} {e : Staged} (h : recordId e.record ≠ some (.source i)) : e.sourceRec i = none :=
  if_neg h

/-- What holds of the state and of every application of the record holds after the record is decided. -/
theorem decideRecord_keeps {α : Type} (p : State → Prop) {s t : State} {id : RecordId} {parsed : Option α}
    {apply : α → State × Code} {c : Code} (h : decideRecord s id parsed apply = .decided t c) (hs : p s)
    (happly : ∀ r, p (apply r).1) : p t := by
  cases parsed with
  | none => cases h; exact hs
  | some r =>
    simp only [decideRecord] at h
    split at h
    · cases h
    · cases h; exact happly r

/-- A record of another kind leaves the sources as they are. -/
theorem decideEntry_sources {s t : State} {id : RecordId} {d : Burst} {c : Code} (h : decideEntry s id d = .decided t c)
    (hid : ∀ j, id ≠ .source j) : t.src.sources = s.src.sources := by
  cases id with
  | source j => exact absurd rfl (hid j)
  | floor | view | turret | program | group | recipe | line | bank0 | bank1 =>
    rw [decideEntry] at h
    exact decideRecord_keeps (fun x => x.src.sources = s.src.sources) h rfl (by simp)

/-- A source record in range is always applied: no source is busy (R178). -/
theorem decideEntry_source (s : State) (i : Nat) (d : Burst) :
    decideEntry s (.source i) d =
      (parseSource d).elim (.decided s .range) fun r => .decided (s.applySource i r) .applied := by
  cases h : parseSource d <;> simp [decideEntry, decideRecord, busy, h]

theorem State.applySource_source (s : State) (i j : Nat) (r : SourceRec) :
    (s.applySource j r).source i = if i = j then (s.source j).apply r else s.source i := by
  rw [← State.setSource_get]
  simp [State.applySource, State.source]

theorem State.takeEntry_decided {s t : State} {e : Staged} {id : RecordId} {c : Code} (hr : recordId e.record = some id)
    (hd : decideEntry s id e.data = .decided t c) :
    s.takeEntry e = (t.handOn (planNotice t e.record (planTag e.data) c), none) := by
  simp only [State.takeEntry, hr, hd]

theorem State.takeEntry_held_src {s : State} {e : Staged} {id : RecordId} (hr : recordId e.record = some id)
    (hd : decideEntry s id e.data = .held) : (s.takeEntry e).1.src = s.src := by
  simp only [State.takeEntry, hr, hd]
  split <;> simp

/-- An entry that is no source record leaves the sources as they are. -/
theorem State.takeEntry_sources {s : State} {e : Staged} (h : ∀ j, recordId e.record ≠ some (.source j)) :
    (s.takeEntry e).1.src.sources = s.src.sources := by
  cases hr : recordId e.record with
  | none => simp only [State.takeEntry, hr]
  | some id =>
    cases hd : decideEntry s id e.data with
    | decided t c =>
      have ht := decideEntry_sources hd fun j hj => h j (by rw [hr, hj])
      simpa [State.takeEntry_decided hr hd] using ht
    | held => rw [State.takeEntry_held_src hr hd]

/-- One staged entry applies its record to the source it names, and to no other. -/
theorem State.takeEntry_source (s : State) (i : Nat) (e : Staged) :
    (s.takeEntry e).1.source i = (e.sourceRec i).elim (s.source i) (s.source i).apply := by
  by_cases hsource : ∃ j, recordId e.record = some (.source j)
  · obtain ⟨j, hr⟩ := hsource
    have hd := decideEntry_source s j e.data
    cases hp : parseSource e.data with
    | none =>
      rw [hp] at hd
      simp [State.takeEntry_decided hr hd, Staged.sourceRec, hp, State.source]
    | some r =>
      rw [hp] at hd
      have happly := s.applySource_source i j r
      by_cases hj : j = i
      · subst hj
        simpa [State.takeEntry_decided hr hd, Staged.sourceRec, hr, hp, State.source] using happly
      · simpa [State.takeEntry_decided hr hd, Staged.sourceRec, hr, hj, Ne.symm hj, State.source] using happly
  · have hne : e.sourceRec i = none := Staged.sourceRec_of_ne fun h => hsource ⟨i, h⟩
    simp only [State.source, State.takeEntry_sources fun j h => hsource ⟨j, h⟩, hne, Option.elim_none]

/-- The staging list applies to a source its own records in order (R176, R177). -/
theorem State.takeEntries_source (s : State) (i : Nat) (l : List Staged) :
    (s.takeEntries l).1.source i = (l.filterMap (·.sourceRec i)).foldl Source.apply (s.source i) := by
  induction l generalizing s with
  | nil => rfl
  | cons e l ih =>
    simp only [State.takeEntries, ih, State.takeEntry_source]
    cases h : e.sourceRec i <;> simp [h]

/-! ### A source through a close -/

/-- The source that the staging list finds at a close: restarted where a restart is pending, and its counts cleared where that was
asked (R28, R184). -/
def State.sourceCleared (s : State) (i : Nat) : Source :=
  let x := if s.plan.restart.isSome then (s.source i).restart else s.source i
  if s.plan.clears = [] then x else x.clearCounts

/-- The source that playout decision finds at a close: its staged records applied in order (R20, R176). -/
def State.sourceDecided (s : State) (i : Nat) : Source :=
  (s.plan.staging.filterMap (·.sourceRec i)).foldl Source.apply (s.sourceCleared i)

theorem State.closeEdits_source (s : State) (i : Nat) :
    s.closeEdits.source i = if s.plan.restart.isSome then (s.source i).restart else s.source i := by
  have hrestart : s.restartState.source i = (s.source i).restart :=
    Table.get_map s.src.sources {} (fun _ x => x.restart) i rfl
  simp only [State.closeEdits]
  split
  · rw [← hrestart]; simp [State.restartClear, State.source]
  · rfl

theorem State.clearCounts_source (s : State) (i : Nat) :
    s.clearCounts.source i = if s.plan.clears = [] then s.source i else (s.source i).clearCounts := by
  simp only [State.clearCounts]
  split
  · rfl
  · exact Table.get_map s.src.sources {} (fun _ x => x.clearCounts) i rfl

theorem State.closeSources_source (s : State) (i : Nat) : s.closeSources.source i = (s.source i).close s.P := by
  have hmap := Table.get_map s.src.sources {} (fun _ x => x.close s.P) i rfl
  simpa [State.closeSources, State.source] using hmap

/-- The capture of a level image resets every source's peak, and does nothing else to a source (R44). -/
theorem State.captureLevels_source (s : State) (i : Nat) :
    s.captureLevels.source i =
      if s.src.snapPending ≠ [] ∧ s.src.levelImage.isNone then (s.source i).resetPeak else s.source i := by
  simp only [State.captureLevels]
  split
  · have hmap := Table.get_map s.src.sources {} (fun _ x => x.resetPeak) i rfl
    simpa [State.source] using hmap
  · rfl

/-- The source unit's work of a close on one source, records staged or not. -/
theorem State.closeIntake_source (s : State) (o : CloseOrder) (i : Nat) :
    (s.closeIntake o).source i =
      ((s.plan.staging.filterMap (·.sourceRec i)).foldl Source.apply (s.clearCounts.source i)).close s.P := by
  have hearly : ∀ l, (s.clearCounts.loseEarly l).takeStaging.source i =
      (s.plan.staging.filterMap (·.sourceRec i)).foldl Source.apply (s.clearCounts.source i) := by
    intro l
    have h := (s.clearCounts.loseEarly l).takeEntries_source i s.plan.staging
    simpa [State.takeStaging, State.source] using h
  rw [← hearly (s.clearCounts.earlyLosses o)]
  have h := ((s.clearCounts.loseEarly (s.clearCounts.earlyLosses o)).takeStaging).closeSources_source i
  simpa [State.closeIntake, State.source, State.P] using h

/-- A close does to each source, of those that its restart, clears and records leave, the work of the P it begins, and then resets its
peak where it captures a level image (R28, R31, R44, R176, R184). -/
theorem State.close_source (s : State) (o : CloseOrder) (i : Nat) :
    (s.close o).source i =
      if s.src.snapPending ≠ [] ∧ s.src.levelImage.isNone then ((s.sourceDecided i).close (s.close o).P).resetPeak
      else (s.sourceDecided i).close (s.close o).P := by
  obtain ⟨a, b, e⟩ := s.close_eq o
  have hP : (s.close o).P = s.beginClose.closeEdits.P := by rw [e]; simp [State.P]
  have hbegin : s.beginClose.source i = s.source i := by simp [State.source]
  have hintake : (s.beginClose.closeEdits.closeIntake o).source i = (s.sourceDecided i).close (s.close o).P := by
    rw [hP, State.closeIntake_source, State.clearCounts_source, State.closeEdits_source, hbegin]
    simp [State.sourceDecided, State.sourceCleared]
  rw [← hintake, e]
  have hcapture := State.captureLevels_source
    (((s.beginClose.closeEdits.closeIntake o).closeControl o a).closeRecords o b).closeResults i
  simpa [State.source] using hcapture

@[simp] theorem Source.resetPeak_kept (x : Source) :
    x.resetPeak.record = x.record ∧ x.resetPeak.det.smoothed = x.det.smoothed := by
  simp [Source.resetPeak]

/-- The record that a source has after a close is the one that playout decision found. -/
theorem State.close_source_record (s : State) (o : CloseOrder) (i : Nat) :
    ((s.close o).source i).record = (s.sourceDecided i).record := by
  rw [State.close_source]; split <;> simp

/-- A source detected at a close moves its smoothed level on the level of its playout status for P (R32, R33). -/
theorem State.close_source_smoothed {s : State} {i : Nat} (o : CloseOrder) (h : (s.sourceDecided i).intake = true) :
    ((s.close o).source i).det.smoothed = smooth (s.sourceDecided i).det.smoothed
      ((s.sourceDecided i).levelFor (s.close o).P ((s.sourceDecided i).decide (s.close o).P)) := by
  rw [State.close_source]; split <;> simp [Source.close_smoothed _ h]

/-- Before its records, a source keeps its record; without a restart its tags, levels and detection state too, and with one its
smoothed level is 0 (R28, R184). -/
theorem State.sourceCleared_kept (s : State) (i : Nat) :
    (s.sourceCleared i).record = (s.source i).record ∧
    (s.plan.restart = none → (s.sourceCleared i).tags = (s.source i).tags ∧
      (s.sourceCleared i).levels = (s.source i).levels ∧ (s.sourceCleared i).det = (s.source i).det) ∧
    (s.plan.restart.isSome → (s.sourceCleared i).det.smoothed = 0) := by
  simp only [State.sourceCleared]
  cases s.plan.restart <;> split <;> simp [Source.restart, Source.clearCounts]

/-- The old level of a close's step is the level the source had, or 0 where the close restarts the floor or enables it (R33). -/
theorem State.sourceDecided_smoothed (s : State) (i : Nat) :
    (s.sourceDecided i).det.smoothed = (s.source i).det.smoothed ∨ (s.sourceDecided i).det.smoothed = 0 := by
  obtain ⟨-, hkept, hrestart⟩ := s.sourceCleared_kept i
  rcases Source.foldl_apply_smoothed (s.plan.staging.filterMap (·.sourceRec i)) (s.sourceCleared i) with h | h
  · cases hr : s.plan.restart with
    | none =>
      obtain ⟨-, -, hdet⟩ := hkept hr
      exact .inl (by rw [State.sourceDecided, h, hdet])
    | some r => exact .inr (h.trans (hrestart (by rw [hr]; rfl)))
  · exact .inr h

/-- Playout decision finds a source of which no record is staged as the restart and the clears left it. -/
theorem State.sourceDecided_unstaged (s : State) (i : Nat)
    (h : ∀ e ∈ s.plan.staging, recordId e.record ≠ some (.source i)) : s.sourceDecided i = s.sourceCleared i := by
  have hnone : s.plan.staging.filterMap (·.sourceRec i) = [] :=
    List.filterMap_eq_nil_iff.2 fun e he => Staged.sourceRec_of_ne (h e he)
  rw [State.sourceDecided, hnone, List.foldl_nil]

/-- Settles O57: the arithmetic is that of `smooth_eq`, and the close that of `State.close_source`, with the source that playout
decision finds as the source that takes the step. -/
theorem smoothedLevel : Obligations.SmoothedLevel := by
  unfold Obligations.SmoothedLevel
  refine ⟨fun old m hold hm => ⟨smooth_eq_fdiv old m, ?_⟩, fun s o i hrun => ?_, fun x r he hn => ?_, fun i => rfl, fun x => rfl⟩
  · rw [smooth_eq, smooth_eq]; omega
  · exact ⟨s.ready.close o, s.ready.sourceDecided i, by simp [exec, execFrameClose, hrun],
      s.ready.close_source_record o i, s.ready.close_source_smoothed o, s.ready.sourceDecided_smoothed i,
      fun hnone => s.ready.sourceDecided_unstaged i hnone ▸ s.ready.sourceCleared_kept i⟩
  · rw [Source.apply_enabling he hn]

end Sys2Proof.Machine
end

section
/-!
SUPPORT. The ranking of a group bus's candidates and its selection (R49, R50): ranking sorts the candidates and loses none, so the
first K of them are ranked before by no candidate that is left out.
-/

namespace Sys2Proof.Machine

/-! ### The ranking -/

/-- A contributor is not ranked before another exactly where its level is lower, or equal with a source number not below. -/
theorem ranksBefore_eq_false {s : State} {a b : Contributor} :
    ranksBefore s a b = false ↔
      (s.source a.source).handedSmoothed < (s.source b.source).handedSmoothed ∨
        (s.source a.source).handedSmoothed = (s.source b.source).handedSmoothed ∧ b.source ≤ a.source := by
  simp only [ranksBefore, Bool.or_eq_false_iff, Bool.and_eq_false_iff, decide_eq_false_iff_not, beq_eq_false_iff_ne]
  omega

theorem ranksBefore_asymm {s : State} {a b : Contributor} (h : ranksBefore s a b = true) : ranksBefore s b a = false := by
  rw [ranksBefore_eq_false]
  simp only [ranksBefore, Bool.or_eq_true, Bool.and_eq_true, decide_eq_true_eq, beq_iff_eq] at h
  omega

/-- Not being ranked before is transitive: levels and source numbers are linearly ordered. -/
theorem ranksBefore_eq_false_trans {s : State} {a b c : Contributor} (hba : ranksBefore s b a = false)
    (hcb : ranksBefore s c b = false) : ranksBefore s c a = false := by
  rw [ranksBefore_eq_false] at *
  omega

/-- A list in ranking order: no contributor ranks before one that stands ahead of it. -/
def InRankOrder (s : State) (l : List Contributor) : Prop := l.Pairwise fun c d => ranksBefore s d c = false

theorem rankIn_perm (s : State) (c : Contributor) (l : List Contributor) : (rankIn s c l).Perm (c :: l) := by
  induction l with
  | nil => exact .refl _
  | cons d ds ih =>
    simp only [rankIn]
    split
    · exact .refl _
    · exact (ih.cons d).trans (.swap c d ds)

/-- A candidate put in its rank keeps a list in ranking order. -/
theorem InRankOrder.rankIn {s : State} {l : List Contributor} (h : InRankOrder s l) (c : Contributor) :
    InRankOrder s (rankIn s c l) := by
  induction l with
  | nil => exact List.pairwise_singleton _ c
  | cons d ds ih =>
    obtain ⟨hd, hds⟩ := List.pairwise_cons.1 h
    simp only [Machine.rankIn]
    split
    case isTrue hcd =>
      have hdc := ranksBefore_asymm hcd
      refine List.pairwise_cons.2 ⟨fun e he => ?_, h⟩
      rcases List.mem_cons.1 he with rfl | he
      · exact hdc
      · exact ranksBefore_eq_false_trans hdc (hd e he)
    case isFalse hcd =>
      refine List.pairwise_cons.2 ⟨fun e he => ?_, ih hds⟩
      rcases List.mem_cons.1 ((rankIn_perm s c ds).mem_iff.1 he) with rfl | he
      · exact Bool.eq_false_of_not_eq_true hcd
      · exact hd e he

theorem ranked_perm (s : State) (l : List Contributor) : (ranked s l).Perm l := by
  induction l with
  | nil => exact .refl _
  | cons c l ih => exact (rankIn_perm s c (ranked s l)).trans (ih.cons c)

theorem ranked_inRankOrder (s : State) (l : List Contributor) : InRankOrder s (ranked s l) := by
  induction l with
  | nil => exact .nil
  | cons c l ih => exact ih.rankIn c

/-! ### The candidates and the selection -/

/-- The candidates of a group bus for P: its permitted contributors (R49). -/
def candidates (s : State) (g : Nat) : List Contributor := (s.bus (128 + g)).inForce.filter (permitted s g)

theorem mem_candidates {s : State} {g : Nat} {c : Contributor} :
    c ∈ candidates s g ↔ c ∈ (s.bus (128 + g)).inForce ∧ permitted s g c = true :=
  List.mem_filter

/-- A contributor is permitted where its source is not GUARDED and its talk flag, or its key, is on (R49). -/
theorem permitted_iff {s : State} {g : Nat} {c : Contributor} :
    permitted s g c = true ↔ (s.source c.source).handedGuarded = false ∧
      (c.kind = .opened → (s.source c.source).handedFlag = true) ∧
      (c.kind = .keyed → c.source ∈ (s.groupAt g).latched) := by
  cases h : c.kind <;> simp [permitted, h]

theorem selection_eq (s : State) (g : Nat) :
    selection s g = (ranked s (candidates s g)).take (s.groupAt g).record.cap := rfl

theorem selection_length (s : State) (g : Nat) :
    (selection s g).length = min (s.groupAt g).record.cap (candidates s g).length := by
  rw [selection_eq, List.length_take, (ranked_perm s _).length_eq]

theorem mem_candidates_of_mem_selection {s : State} {g : Nat} {c : Contributor} (h : c ∈ selection s g) :
    c ∈ candidates s g :=
  (ranked_perm s _).mem_iff.1 (List.mem_of_mem_take h)

theorem selection_inRankOrder (s : State) (g : Nat) : InRankOrder s (selection s g) :=
  (ranked_inRankOrder s _).sublist (List.take_sublist ..)

/-- A candidate left out stands, in the ranking, after every one selected (R50). -/
theorem not_ranksBefore_selection {s : State} {g : Nat} {c d : Contributor} (hc : c ∈ candidates s g)
    (hout : c ∉ selection s g) (hd : d ∈ selection s g) : ranksBefore s c d = false := by
  have horder := ranked_inRankOrder s (candidates s g)
  have hranked := (ranked_perm s (candidates s g)).mem_iff.2 hc
  rw [InRankOrder, ← List.take_append_drop (s.groupAt g).record.cap (ranked s (candidates s g))] at horder
  rw [← List.take_append_drop (s.groupAt g).record.cap (ranked s (candidates s g)), ← selection_eq] at hranked
  obtain ⟨-, -, hacross⟩ := List.pairwise_append.1 horder
  exact hacross d hd c ((List.mem_append.1 hranked).resolve_left hout)

theorem selection_of_no_candidates {s : State} {g : Nat} (h : candidates s g = []) : selection s g = [] := by
  simp [selection_eq, h, ranked]

/-- The counted contributors of a group bus are the selected ones. -/
theorem counted_group (s : State) (g : Nat) : counted s (128 + g) = selection s g := by
  simp [counted]

/-- A bus with nothing counted has the value 0 (R61). -/
theorem busValue_nil (got : List (Nat × Burst)) (e : Option Nat) (i : Nat) : busValue got [] e i = 0 := by
  cases e <;> simp [busValue, busSum, round14]

/-! ### The talker cap of a record -/

theorem clamp_bounds {lo hi : Nat} (h : lo ≤ hi) (x : Nat) : lo ≤ clamp lo hi x ∧ clamp lo hi x ≤ hi := by
  simp only [clamp]; omega

/-- A group record in range takes its talker cap clamped into 1 to 6 (R114). -/
theorem parseGroup_cap {d : Burst} {r : GroupRec} (h : parseGroup d = some r) : r.cap = clamp 1 6 (field d 2 1) := by
  simp only [parseGroup] at h
  split at h
  · split at h
    · cases h; rfl
    · cases h
  · cases h

/-- Settles O59: ranking sorts the candidates, and the selection is the first K of them. -/
theorem selectionOfGroupBus : Obligations.SelectionOfGroupBus := by
  unfold Obligations.SelectionOfGroupBus
  intro s g
  refine ⟨selection_length s g, fun c hc => ?_, selection_inRankOrder s g,
    fun c hbus hperm hout d => not_ranksBefore_selection (mem_candidates.2 ⟨hbus, hperm⟩) hout,
    counted_group s g, fun hnone got e i => ?_, fun batch c => rfl, fun d r hr => ?_⟩
  · obtain ⟨hbus, hperm⟩ := mem_candidates.1 (mem_candidates_of_mem_selection hc)
    exact ⟨hbus, permitted_iff.1 hperm⟩
  · rw [countedPairs, counted_group, selection_of_no_candidates hnone, List.map_nil, busValue_nil]
  · rw [parseGroup_cap hr]; exact clamp_bounds (by decide) _

end Sys2Proof.Machine
end

section
/-!
SUPPORT. The requests that a handset makes to leave its line (R85, R92, R94). A request answered when it is taken is its owner's work and
then its result (`Taken.served_result`). Both leaves end in one operation, `State.changeTo`: the line goes to a state, or keeps it, with
a LINE_STATE notice last; what that leaves and changes is said once, and the two statements are assembled from it.
-/

namespace Sys2Proof.Machine

/-! ### A request answered when it is taken -/

/-- What the work of a line request's owner leaves as it found it: the clock and the sources, the plan unit, memory, the response queues
and the counts of the path switch. -/
structure OwnerWork (x y : State) : Prop where
  src : y.src = x.src
  plan : y.plan = x.plan
  mem : y.mem = x.mem
  queues : y.path.queues = x.path.queues
  returned : y.path.returned = x.path.returned
  partialWrites : y.path.partialWrites = x.path.partialWrites
  memoryFaults : y.path.memoryFaults = x.path.memoryFaults
  faultMark : y.path.faultMark = x.path.faultMark

theorem ownerWork_lineRelease (x : State) (turret handset n : Nat) : OwnerWork x (x.lineRelease turret handset n).1 := by
  constructor <;> simp

theorem ownerWork_lineHold (x : State) (turret handset n : Nat) : OwnerWork x (x.lineHold turret handset n).1 := by
  constructor <;> simp

/-- A request taken, its owner's work, and the result are a request served. -/
theorem Taken.served_result {s x y : State} {head : RequestHead} {d : Burst}
    (hx : Taken s.ready head.master (requestOffset head.cell) d x) (hy : OwnerWork x y) (k : RequestKind) (c : Code) :
    Served s (y.result (replyTo head) k c) head k c := by
  have hqueue : ∀ j, (y.result (replyTo head) k c).queue j = x.queue j := fun j => by simp [State.queue, hy.queues]
  constructor
  · exact ⟨y, rfl⟩
  · intro a ha
    have hmem : (y.result (replyTo head) k c).mem = writeBurst s.mem (s.requestAddress head) d Enables.full :=
      (by simp : (y.result (replyTo head) k c).mem = y.mem).trans (hy.mem.trans hx.mem)
    rw [hmem, readByte_writeBurst, if_neg (by omega)]
  · exact fun j hj => (hqueue j).trans (hx.queues j hj)
  · intro hempty
    obtain ⟨hq, hret⟩ := hx.reply hempty
    exact ⟨(hqueue _).trans hq, by simpa [hy.returned] using hret⟩
  · simp [hy.partialWrites, hx.partialWrites]
  · simp [hy.memoryFaults, hx.memoryFaults]
  · simp [hy.faultMark, hx.faultMark]
  · simp [hy.src, hx.src]
  · simp [hy.plan, hx.plan]

/-- A LINE_RELEASE is taken by the line controller, and its result follows (R182, R183). -/
theorem exec_lineRelease_taken {s : State} {head : RequestHead} (hw : s.RequestWay head) (turret handset : BitVec 8)
    (line : BitVec 16) :
    ∃ x, Taken s.ready head.master (requestOffset head.cell) (requestCell head .lineRelease (lineFields turret handset line)) x ∧
      exec (.lineRelease head turret handset line) s =
        .next ((x.lineRelease turret.toNat handset.toNat line.toNat).1.result (replyTo head) .lineRelease
          (x.lineRelease turret.toNat handset.toNat line.toNat).2) := by
  obtain ⟨hway, hring, hrestart⟩ := hw
  obtain ⟨x, hx, he⟩ := State.request_dispatched hway hring hrestart .lineRelease (lineFields turret handset line)
  obtain ⟨hturret, hhandset, hline⟩ := lineFields_back head .lineRelease turret handset line
  refine ⟨x, hx, ?_⟩
  rw [exec_after, after, he, State.dispatch, hturret, hhandset, hline]
  rfl

/-- A LINE_HOLD is taken by the line controller, and its result follows (R182, R183). -/
theorem exec_lineHold_taken {s : State} {head : RequestHead} (hw : s.RequestWay head) (turret handset : BitVec 8)
    (line : BitVec 16) :
    ∃ x, Taken s.ready head.master (requestOffset head.cell) (requestCell head .lineHold (lineFields turret handset line)) x ∧
      exec (.lineHold head turret handset line) s =
        .next ((x.lineHold turret.toNat handset.toNat line.toNat).1.result (replyTo head) .lineHold
          (x.lineHold turret.toNat handset.toNat line.toNat).2) := by
  obtain ⟨hway, hring, hrestart⟩ := hw
  obtain ⟨x, hx, he⟩ := State.request_dispatched hway hring hrestart .lineHold (lineFields turret handset line)
  obtain ⟨hturret, hhandset, hline⟩ := lineFields_back head .lineHold turret handset line
  refine ⟨x, hx, ?_⟩
  rw [exec_after, after, he, State.dispatch, hturret, hhandset, hline]
  rfl

/-- The turret of a handset number whose fields are in range (R78). -/
theorem handsetOf_turret {s : State} {turret handset n : Nat} (h : lineFieldsOk s turret handset n = true) :
    handsetOf turret handset / 2 = turret := by
  simp only [lineFieldsOk, Bool.and_eq_true, decide_eq_true_eq] at h
  obtain ⟨⟨⟨-, hhandset⟩, -⟩, -⟩ := h
  simp only [handsetOf]; omega

/-! ### The cases of the two requests -/

theorem State.lineRelease_badRequest {x : State} {turret handset n : Nat} (h : lineFieldsOk x turret handset n = false) :
    x.lineRelease turret handset n = (x, .badRequest) := by
  simp [State.lineRelease, h]

theorem State.lineRelease_notJoined {x : State} {turret handset n : Nat} (h : lineFieldsOk x turret handset n = true)
    (hj : handsetOf turret handset ∉ (x.lineAt n).joined) : x.lineRelease turret handset n = (x, .notJoined) := by
  simp [State.lineRelease, h, hj]

theorem State.lineRelease_joined {x : State} {turret handset n : Nat} (h : lineFieldsOk x turret handset n = true)
    (hj : handsetOf turret handset ∈ (x.lineAt n).joined) :
    x.lineRelease turret handset n = (x.leaveLine n (handsetOf turret handset) .release, .done) := by
  simp [State.lineRelease, h, hj]

theorem State.lineHold_badRequest {x : State} {turret handset n : Nat} (h : lineFieldsOk x turret handset n = false) :
    x.lineHold turret handset n = (x, .badRequest) := by
  simp [State.lineHold, h]

theorem State.lineHold_notJoined {x : State} {turret handset n : Nat} (h : lineFieldsOk x turret handset n = true)
    (hj : handsetOf turret handset ∉ (x.lineAt n).joined) : x.lineHold turret handset n = (x, .notJoined) := by
  simp [State.lineHold, h, hj]

theorem State.lineHold_others {x : State} {turret handset n : Nat} (h : lineFieldsOk x turret handset n = true)
    (hj : handsetOf turret handset ∈ (x.lineAt n).joined)
    (hrest : (x.lineAt n).joined.filter (· != handsetOf turret handset) ≠ []) :
    x.lineHold turret handset n = (x.leaveLine n (handsetOf turret handset) .hold, .done) := by
  simp only [State.lineHold, h, List.contains_iff_mem.2 hj, hrest, not_true, if_false, ne_eq, not_false_eq_true, if_true]

theorem State.lineHold_last {x : State} {turret handset n : Nat} (h : lineFieldsOk x turret handset n = true)
    (hj : handsetOf turret handset ∈ (x.lineAt n).joined)
    (hrest : (x.lineAt n).joined.filter (· != handsetOf turret handset) = []) :
    x.lineHold turret handset n =
      if (x.lineAt n).status = .connected then x.holdLast n (handsetOf turret handset) else (x, .state) := by
  simp only [State.lineHold, h, List.contains_iff_mem.2 hj, hrest, not_true, if_false, ne_eq]

/-! ### A line that goes to a state, or keeps it -/

/-- The line goes to a state, or keeps the state it has; either way with a LINE_STATE notice (R80). -/
def State.changeTo (s : State) (n : Nat) (new : LineStatus) (c : Cause) (h : Option Nat) : State :=
  if new = (s.lineAt n).status then s.handOn (lineNotice s n new new c h .done) else s.moveLine n new c h .done

theorem State.changeTo_same {s : State} {n : Nat} {new : LineStatus} (c : Cause) (h : Option Nat)
    (hs : new = (s.lineAt n).status) : s.changeTo n new c h = s.handOn (lineNotice s n new new c h .done) :=
  if_pos hs

theorem State.changeTo_move {s : State} {n : Nat} {new : LineStatus} (c : Cause) (h : Option Nat)
    (hs : new ≠ (s.lineAt n).status) : s.changeTo n new c h = s.moveLine n new c h .done :=
  if_neg hs

/-- The first steps of a change of line state: the new state, and the outbound cell where the outbound state changes (R77). -/
def State.lineTold (s : State) (n : Nat) (new : LineStatus) : State :=
  if (s.lineAt n).status.outbound = new.outbound then s.setLine n ((s.lineAt n).moved new)
  else (s.setLine n ((s.lineAt n).moved new)).writeOutbound n

/-- The steps of a change of line state before its notice: then the record channel and the ring (R96, R98). -/
def State.lineSettled (s : State) (n : Nat) (new : LineStatus) : State :=
  let x := if new.freesChannel then (s.lineTold n new).reportIdle (.line n) else s.lineTold n new
  if (s.lineAt n).status = .inboundRing ∧ new ≠ .inboundRing then x.stopRing n else x

@[simp] theorem State.lineTold_frame (s : State) (n : Nat) (new : LineStatus) :
    (s.lineTold n new).src = s.src ∧ (s.lineTold n new).recorder = s.recorder := by
  unfold State.lineTold; split <;> simp

/-- The record channel, and the ring, send no burst and change no clock. -/
theorem State.lineSettled_kept (s : State) (n : Nat) (new : LineStatus) :
    (s.lineSettled n new).src = s.src ∧ (s.lineSettled n new).path = (s.lineTold n new).path := by
  unfold State.lineSettled; (repeat' split) <;> simp

/-- A change of line state to one without a ring ends with its notice (R80). -/
theorem State.moveLine_eq (s : State) (n : Nat) {new : LineStatus} (c : Cause) (h : Option Nat) (k : Code)
    (hnew : new ≠ .inboundRing) :
    s.moveLine n new c h k = (s.lineSettled n new).handOn (lineNotice s n (s.lineAt n).status new c h k) := by
  have hnotice : lineNotice (s.lineSettled n new) n (s.lineAt n).status new c h k =
      lineNotice s n (s.lineAt n).status new c h k := by
    simp only [lineNotice, (s.lineSettled_kept n new).1]
  rw [← hnotice, State.moveLine, if_neg hnew]
  rfl

/-- An idle report does to the recorder what its channels say, whatever the rest of the state (R140). -/
theorem State.reportIdle_recorder {s x : State} (o : Obj) (hx : x.recorder = s.recorder) :
    (x.reportIdle o).recorder = (s.reportIdle o).recorder := by
  have hof : x.channelOf o = s.channelOf o := by simp only [State.channelOf, State.channel, hx]
  simp only [State.reportIdle, hof]
  split <;> simp [hx]

/-- A change to a state that frees the record channel, and starts no ring, is an idle report (R98, R140). -/
theorem State.moveLine_frees (s : State) (n : Nat) {new : LineStatus} (c : Cause) (h : Option Nat) (k : Code)
    (hring : new ≠ .inboundRing) (hnew : new.freesChannel = true) :
    (s.moveLine n new c h k).recorder = (s.reportIdle (.line n)).recorder := by
  rw [State.moveLine_eq s n c h k hring, ← State.reportIdle_recorder (.line n) (s.lineTold_frame n new).2]
  simp only [State.lineSettled, hnew, if_true, State.handOn_frame]
  split <;> simp

/-- A line whose outbound state changes has its outbound cell written with the new one and F (R77). -/
theorem State.moveLine_outbound {s : State} {n : Nat} {new : LineStatus} (c : Cause) (h : Option Nat) (k : Code)
    (ha : s.path.active = true) (hring : new ≠ .inboundRing) (hout : (s.lineAt n).status.outbound ≠ new.outbound) :
    ∃ f ∈ (s.moveLine n new c h k).path.ownWait, f.owner = .signal n ∧ f.addr = s.path.address (outboundOffset n) ∧
      f.op = fullWrite (encodeOutbound new.outbound s.src.F) := by
  rw [State.moveLine_eq s n c h k hring]
  refine ⟨{ id := s.path.nextId, addr := s.path.address (outboundOffset n),
            op := fullWrite (encodeOutbound new.outbound s.src.F), owner := .signal n },
    (State.handOn_grows _ _).subset ?_, rfl, rfl, rfl⟩
  rw [(s.lineSettled_kept n new).2, State.lineTold, if_neg hout]
  simp [State.writeOutbound, State.issueWrite, State.issue, ha, fullWrite]

/-! ### A line that goes to a state without a ring -/

/-- The line keeps its state, or goes from and to a state in which it does not ring. -/
def LineStatus.Ringless (old new : LineStatus) : Prop := new = old ∨ (old ≠ .inboundRing ∧ new ≠ .inboundRing)

theorem State.changeTo_lineAt (s : State) (n j : Nat) (new : LineStatus) (c : Cause) (h : Option Nat) :
    (s.changeTo n new c h).lineAt j =
      if j = n ∧ new ≠ (s.lineAt n).status then (s.lineAt n).moved new else s.lineAt j := by
  by_cases hs : new = (s.lineAt n).status
  · rw [State.changeTo_same c h hs, if_neg (by simp [hs])]; simp [State.lineAt]
  · rw [State.changeTo_move c h hs, State.moveLine_lineAt]; simp [hs]

theorem State.changeTo_occupancy (s : State) (n j : Nat) (new : LineStatus) (c : Cause) (h : Option Nat) :
    (s.changeTo n new c h).occupancy j = s.occupancy j := by
  by_cases hs : new = (s.lineAt n).status
  · rw [State.changeTo_same c h hs]; simp [State.occupancy]
  · rw [State.changeTo_move c h hs, State.moveLine_occupancy]

/-- The groups stay, and without a ring the mix engine and the ring unit too. -/
theorem State.changeTo_kept {s : State} {n : Nat} {new : LineStatus} (c : Cause) (h : Option Nat)
    (hq : (s.lineAt n).status.Ringless new) :
    (s.changeTo n new c h).mix = s.mix ∧ (s.changeTo n new c h).ring = s.ring ∧ (s.changeTo n new c h).group = s.group := by
  by_cases hs : new = (s.lineAt n).status
  · rw [State.changeTo_same c h hs]; simp
  · obtain ⟨hold, hnew⟩ := hq.resolve_left hs
    rw [State.changeTo_move c h hs]
    obtain ⟨hmix, hring⟩ := s.moveLine_quiet n c h .done hold hnew
    exact ⟨hmix, hring, by simp⟩

/-- The record channel is freed where the line goes to a state that frees it, and else kept (R98). -/
theorem State.changeTo_recorder {s : State} {n : Nat} {new : LineStatus} (c : Cause) (h : Option Nat)
    (hq : (s.lineAt n).status.Ringless new) :
    (s.changeTo n new c h).recorder =
      if new ≠ (s.lineAt n).status ∧ new.freesChannel = true then (s.reportIdle (.line n)).recorder else s.recorder := by
  by_cases hs : new = (s.lineAt n).status
  · rw [State.changeTo_same c h hs, if_neg (by simp [hs])]; simp
  · rw [State.changeTo_move c h hs]
    by_cases hf : new.freesChannel = true
    · rw [if_pos ⟨hs, hf⟩, State.moveLine_frees s n c h .done (hq.resolve_left hs).2 hf]
    · rw [if_neg (by simp [hf]), State.moveLine_recorder s n c h .done (by simpa using hf)]

theorem State.changeTo_outbound {s : State} {n : Nat} {new : LineStatus} (c : Cause) (h : Option Nat)
    (ha : s.path.active = true) (hq : (s.lineAt n).status.Ringless new) (hout : (s.lineAt n).status.outbound ≠ new.outbound) :
    ∃ f ∈ (s.changeTo n new c h).path.ownWait, f.owner = .signal n ∧ f.addr = s.path.address (outboundOffset n) ∧
      f.op = fullWrite (encodeOutbound new.outbound s.src.F) := by
  have hs : new ≠ (s.lineAt n).status := fun e => hout (by rw [e])
  rw [State.changeTo_move c h hs]
  exact State.moveLine_outbound c h .done ha (hq.resolve_left hs).2 hout

/-- The LINE_STATE is the last thing done (R80). -/
theorem State.changeTo_notice {s : State} {n : Nat} {new : LineStatus} (c : Cause) (h : Option Nat)
    (hq : (s.lineAt n).status.Ringless new) :
    ∃ y, s.changeTo n new c h = State.handOn y (lineNotice s n (s.lineAt n).status new c h .done) := by
  by_cases hs : new = (s.lineAt n).status
  · exact ⟨s, by rw [State.changeTo_same c h hs, ← hs]⟩
  · rw [State.changeTo_move c h hs]
    exact ⟨_, s.moveLine_eq n c h .done (hq.resolve_left hs).2⟩

/-! ### The leaves as changes of state -/

/-- The state of a line that a handset releases, with these handsets still joined (R85, R92). -/
def LineStatus.released (st : LineStatus) (rest : List Nat) : LineStatus := if rest ≠ [] then st else st.left .release

theorem LineStatus.released_ringless (st : LineStatus) (rest : List Nat) : st.Ringless (st.released rest) := by
  unfold released; split
  · exact .inl rfl
  · cases st <;> simp [Ringless, left]

/-- A release writes no outbound state but CLEAR (R85). -/
theorem LineStatus.released_outbound {st : LineStatus} {rest : List Nat} (h : st.outbound ≠ (st.released rest).outbound) :
    (st.released rest).outbound = .clear := by
  unfold released at *; split at h
  · exact absurd rfl h
  · rename_i hrest; rw [if_neg hrest]; cases st <;> simp_all [left, outbound]

/-- A release goes to a state that frees the channel where it takes the line to IDLE (R85, R98). -/
theorem LineStatus.released_frees (st : LineStatus) (rest : List Nat) :
    (st.released rest ≠ st ∧ (st.released rest).freesChannel = true) ↔
      rest = [] ∧ (st = .outboundWait ∨ st = .farCleared) := by
  unfold released; split
  · simp_all
  · cases st <;> simp_all [left, freesChannel]

/-- The handset is off the line: its edits are asked, it is vacant, and it is on the joined list no longer; the line has yet to move
(R85). -/
def State.offLine (s : State) (n h : Nat) : State :=
  ((s.askEach (leaveEdits s n h)).setOccupancy h .vacant).setLine n
    { s.lineAt n with joined := (s.lineAt n).joined.filter (· != h) }

theorem State.offLine_lineAt (s : State) (n h j : Nat) :
    (s.offLine n h).lineAt j =
      if j = n then { s.lineAt n with joined := (s.lineAt n).joined.filter (· != h) } else s.lineAt j :=
  State.setLine_get ..

theorem State.offLine_status (s : State) (n h : Nat) : ((s.offLine n h).lineAt n).status = (s.lineAt n).status := by
  rw [State.offLine_lineAt, if_pos rfl]

/-- The line without the handset goes to its released state without a ring. -/
theorem State.offLine_ringless (s : State) (n h : Nat) (rest : List Nat) :
    ((s.offLine n h).lineAt n).status.Ringless ((s.lineAt n).status.released rest) :=
  s.offLine_status n h ▸ LineStatus.released_ringless _ _

theorem State.offLine_occupancy (s : State) (n h j : Nat) :
    (s.offLine n h).occupancy j = if j = h then .vacant else s.occupancy j :=
  State.setOccupancy_get ..

@[simp] theorem State.offLine_frame (s : State) (n h : Nat) :
    (s.offLine n h).src = s.src ∧ (s.offLine n h).mix = s.mix.askEach (leaveEdits s n h) ∧ (s.offLine n h).ring = s.ring ∧
    (s.offLine n h).group = s.group ∧ (s.offLine n h).recorder = s.recorder ∧ (s.offLine n h).path = s.path :=
  ⟨rfl, rfl, rfl, rfl, rfl, rfl⟩

/-- A handset with others joined leaves the line in its state (R85, R92, R94). -/
theorem State.leaveLine_others {s : State} {n h : Nat} (c : Cause) (hrest : (s.lineAt n).joined.filter (· != h) ≠ []) :
    s.leaveLine n h c = (s.offLine n h).changeTo n (s.lineAt n).status c (some h) := by
  rw [State.changeTo_same c (some h) (by simp [State.offLine])]
  exact if_pos hrest

/-- The last handset that releases a line moves it as R85 says. -/
theorem State.handsetGone_release {s : State} {n h : Nat} (hrest : (s.lineAt n).joined.filter (· != h) = []) :
    s.handsetGone n h .release =
      (s.setLine n { s.lineAt n with joined := (s.lineAt n).joined.filter (· != h) }).changeTo n
        ((s.lineAt n).status.left .release) .release (some h) := by
  simp only [State.handsetGone, hrest, ne_eq, not_true, if_false, State.changeTo, State.setLine_self]
  cases hst : (s.lineAt n).status <;> simp [LineStatus.left]

/-- A release takes the handset off the line, and the line to its state (R85, R92). -/
theorem State.leaveLine_release (s : State) (n h : Nat) :
    s.leaveLine n h .release =
      (s.offLine n h).changeTo n ((s.lineAt n).status.released ((s.lineAt n).joined.filter (· != h))) .release (some h) := by
  by_cases hrest : (s.lineAt n).joined.filter (· != h) = []
  · rw [LineStatus.released, if_neg (not_not.2 hrest)]
    exact State.handsetGone_release (s := (s.askEach (leaveEdits s n h)).setOccupancy h .vacant) hrest
  · rw [LineStatus.released, if_pos hrest]
    exact State.leaveLine_others .release hrest

/-- A release asks its edits, and leaves the ring unit and the groups (R85, R92). -/
theorem State.leaveLine_release_kept (s : State) (n h : Nat) :
    (s.leaveLine n h .release).mix = s.mix.askEach (leaveEdits s n h) ∧ (s.leaveLine n h .release).ring = s.ring ∧
    (s.leaveLine n h .release).group = s.group := by
  rw [State.leaveLine_release]
  exact State.changeTo_kept .release (some h) (s.offLine_ringless n h _)

/-- The release timer starts at 0 (R93). -/
theorem State.leaveLine_release_timer {s : State} {n h : Nat} (ht : ((s.leaveLine n h .release).lineAt n).status = .releasing)
    (hs : (s.lineAt n).status ≠ .releasing) : ((s.leaveLine n h .release).lineAt n).releaseTimer = 0 := by
  rw [State.leaveLine_release, State.changeTo_lineAt] at ht ⊢
  split at ht
  · rename_i hmove; rw [if_pos hmove]; exact if_pos ht
  · rw [State.offLine_lineAt, if_pos rfl] at ht; exact absurd ht hs

/-- A release frees the record channel where it takes the line to IDLE (R98). -/
theorem State.leaveLine_release_recorder (s : State) (n h : Nat) :
    (s.leaveLine n h .release).recorder =
      if (s.lineAt n).joined.filter (· != h) = [] ∧
          ((s.lineAt n).status = .outboundWait ∨ (s.lineAt n).status = .farCleared) then (s.reportIdle (.line n)).recorder
      else s.recorder := by
  rw [State.leaveLine_release, State.changeTo_recorder .release (some h) (s.offLine_ringless n h _), State.offLine_status]
  have hidle := State.reportIdle_recorder (s := s) (x := s.offLine n h) (.line n) (by simp)
  simp only [LineStatus.released_frees, hidle, State.offLine_frame]

/-- A release that changes the outbound state writes CLEAR to the outbound cell (R77, R85). -/
theorem State.leaveLine_release_outbound {s : State} {n h : Nat} (ha : s.path.active = true)
    (hout : ((s.leaveLine n h .release).lineAt n).status.outbound ≠ (s.lineAt n).status.outbound) :
    ∃ f ∈ (s.leaveLine n h .release).path.ownWait, f.owner = .signal n ∧ f.addr = s.path.address (outboundOffset n) ∧
      f.op = fullWrite (encodeOutbound .clear s.src.F) := by
  obtain ⟨-, -, hnew, -, -⟩ := s.leaveLine_lineAt n h .release
  have hchanged : (s.lineAt n).status.outbound ≠
      ((s.lineAt n).status.released ((s.lineAt n).joined.filter (· != h))).outbound := fun e => hout (by rw [hnew]; exact e.symm)
  rw [State.leaveLine_release, ← LineStatus.released_outbound hchanged]
  exact State.changeTo_outbound .release (some h) ha (s.offLine_ringless n h _) (s.offLine_status n h ▸ hchanged)

@[simp] theorem State.result_lineAt (s : State) (r : ReplyTo) (k : RequestKind) (c : Code) (n : Nat) :
    (s.result r k c).lineAt n = s.lineAt n := by simp [State.lineAt]

@[simp] theorem State.result_occupancy (s : State) (r : ReplyTo) (k : RequestKind) (c : Code) (h : Nat) :
    (s.result r k c).occupancy h = s.occupancy h := by simp [State.occupancy]

/-! ### The state in which the owner finds the request -/

section
variable {s x : State} {m o : Nat} {d : Burst} (hx : Taken s.ready m o d x)
include hx

theorem Taken.lineAt (n : Nat) : x.lineAt n = s.lineAt n := by simp only [State.lineAt, hx.line]; rfl

theorem Taken.occupancy (h : Nat) : x.occupancy h = s.occupancy h := by simp only [State.occupancy, hx.line]; rfl

theorem Taken.leaveEdits (n h : Nat) : leaveEdits x n h = leaveEdits s n h := by
  simp only [Machine.leaveEdits, State.turret, hx.src]; rfl

theorem Taken.lineFieldsOk (turret handset n : Nat) : lineFieldsOk x turret handset n = lineFieldsOk s turret handset n := by
  simp only [Machine.lineFieldsOk, hx.lineAt]

end

/-- The LINE_STATE of a handset's request, its turret and F written out, comes just before its result. -/
theorem State.changeTo_result {b s : State} {n h turret : Nat} {old new : LineStatus} (c : Cause) (r : ReplyTo) (k : RequestKind)
    (hold : (b.lineAt n).status = old) (hq : old.Ringless new) (hturret : h / 2 = turret) (hsrc : b.src = s.src) :
    ∃ y : State, (b.changeTo n new c (some h)).result r k .done = (y.handOn
      { cls := .line, kind := .lineState, cause := some c, frame := s.src.F, object := some n, turret := some turret,
        handset := some h, old := some old.code, new := some new.code }).result r k .done := by
  subst hold
  obtain ⟨y, hy⟩ := State.changeTo_notice c (some h) hq
  exact ⟨y, by rw [hy, ← hturret, ← hsrc]; rfl⟩

/-! ### LINE_RELEASE -/

/-- Settles O34: the leave is `State.changeTo` from the line without the handset to its released state. -/
theorem lineRelease : Obligations.LineRelease := by
  unfold Obligations.LineRelease
  rintro s head turret handset line n h hw rfl rfl
  obtain ⟨x, hx, he⟩ := exec_lineRelease_taken hw turret handset line
  rw [← hx.lineFieldsOk, ← hx.lineAt]
  refine ⟨⟨x, hx, fun hf => ?_, fun hf hj => ?_⟩, fun hf hj => ?_⟩
  · rw [he, State.lineRelease_badRequest hf]
  · rw [he, State.lineRelease_notJoined hf hj]
  have hserved := hx.served_result (ownerWork_lineRelease x turret.toNat handset.toNat line.toNat) .lineRelease .done
  rw [State.lineRelease_joined hf hj] at he hserved
  have hturret := handsetOf_turret hf
  generalize handsetOf turret.toNat handset.toNat = h, line.toNat = n at *
  have hactive : x.path.active = true := hx.active (State.ready_way.2 hw.1)
  have haddr : ∀ a, x.path.address a = s.path.address a := fun a => by simp only [PathSwitch.address, hx.base]; rfl
  obtain ⟨hother, hjoined, hstatus, hrecord, hinbound⟩ := x.leaveLine_lineAt n h .release
  obtain ⟨hmix, hring, hgroup⟩ := x.leaveLine_release_kept n h
  refine ⟨_, he, hserved, ?_⟩
  simp only [State.result_lineAt, State.result_occupancy, State.result_frame]
  refine ⟨hjoined, hstatus, State.leaveLine_release_timer, hrecord, hinbound, fun j hj => ?_, fun j => ?_, ?_, ?_, ?_, ?_,
    fun hout => ?_, ?_⟩
  · rw [hother j hj, hx.lineAt]
  · rw [x.leaveLine_occupancy, hx.occupancy]
  · rw [hmix, hx.leaveEdits]; exact congrArg (MixEngine.askEach _) hx.mix
  · exact hring.trans hx.ring
  · exact hgroup.trans hx.group
  · rw [x.leaveLine_release_recorder, State.reportIdle_recorder (s := s) (.line n) hx.recorder, hx.recorder]; rfl
  · obtain ⟨f, hf, howner, hat, hop⟩ := State.leaveLine_release_outbound hactive hout
    refine ⟨f, (State.handOnTo_grows _ _ _).subset hf, howner, hat.trans (haddr _), ?_⟩
    rw [hop, hx.src]; rfl
  · rw [hstatus, State.leaveLine_release]
    exact State.changeTo_result .release _ _ (x.offLine_status n h) (LineStatus.released_ringless _ _) hturret hx.src

/-! ### LINE_HOLD -/

/-- The last handset that holds a CONNECTED line is off it, with its leave and the hold term accepted as one batch; the line has yet
to move (R94). -/
def State.holding (s : State) (n h : Nat) (mx : MixEngine) : State :=
  (({ s with mix := mx } : State).setOccupancy h .vacant).setLine n
    { s.lineAt n with
      joined := (s.lineAt n).joined.filter (· != h), holdPlaced := (s.lineAt n).record.hold.isSome }

theorem State.holdLast_refused {s : State} {n h : Nat} {e : EditRefusal}
    (he : s.mix.batch false (leaveEdits s n h ++ holdAdds (s.lineAt n)) = .error e) : s.holdLast n h = (s, .termsFull) := by
  simp only [State.holdLast, he]

/-- A hold whose batch is accepted parks the line (R94, R95). -/
theorem State.holdLast_accepted {s : State} {n h : Nat} {mx : MixEngine} (hs : (s.lineAt n).status = .connected)
    (hmx : s.mix.batch false (leaveEdits s n h ++ holdAdds (s.lineAt n)) = .ok mx) :
    s.holdLast n h = ((s.holding n h mx).changeTo n .held .hold (some h), .done) := by
  rw [State.changeTo_move .hold (some h) (by simp [State.holding, hs])]
  simp only [State.holdLast, hmx, State.holding]

theorem State.holding_lineAt (s : State) (n h j : Nat) (mx : MixEngine) :
    (s.holding n h mx).lineAt j =
      if j = n then { s.lineAt n with
        joined := (s.lineAt n).joined.filter (· != h), holdPlaced := (s.lineAt n).record.hold.isSome }
      else s.lineAt j :=
  State.setLine_get ..

theorem State.holding_occupancy (s : State) (n h j : Nat) (mx : MixEngine) :
    (s.holding n h mx).occupancy j = if j = h then .vacant else s.occupancy j :=
  State.setOccupancy_get ..

/-- `b` is `s` with a handset off line n and vacant; the line's own record and the mix engine apart, the blocks that a hold speaks of
are as they were (R85, R94). -/
structure OffLine (s b : State) (n h : Nat) : Prop where
  src : b.src = s.src
  ring : b.ring = s.ring
  group : b.group = s.group
  recorder : b.recorder = s.recorder
  others : ∀ j, j ≠ n → b.lineAt j = s.lineAt j
  occupancy : ∀ j, b.occupancy j = if j = h then .vacant else s.occupancy j

theorem Taken.offLine {s x : State} {m o : Nat} {d : Burst} (hx : Taken s.ready m o d x) (n h : Nat) :
    OffLine s (x.offLine n h) n h :=
  ⟨hx.src, hx.ring, hx.group, hx.recorder, fun j hj => by rw [State.offLine_lineAt, if_neg hj, hx.lineAt],
    fun j => by rw [State.offLine_occupancy, hx.occupancy]⟩

theorem Taken.holding {s x : State} {m o : Nat} {d : Burst} (hx : Taken s.ready m o d x) (n h : Nat) (mx : MixEngine) :
    OffLine s (x.holding n h mx) n h :=
  ⟨hx.src, hx.ring, hx.group, hx.recorder, fun j hj => by rw [State.holding_lineAt, if_neg hj, hx.lineAt],
    fun j => by rw [State.holding_occupancy, hx.occupancy]⟩

/-- A line that a handset is off goes to a state without a ring, freeing no channel: the mix engine is as the leave left it, and all
but the line is as it was (R80, R85, R94). -/
theorem OffLine.changeTo_kept {s b : State} {n h : Nat} (hb : OffLine s b n h) {new : LineStatus} (c : Cause)
    (hq : (b.lineAt n).status.Ringless new) (hf : new = (b.lineAt n).status ∨ new.freesChannel = false) {t : State}
    (ht : t = b.changeTo n new c (some h)) :
    (∀ j, j ≠ n → t.lineAt j = s.lineAt j) ∧ (∀ j, t.occupancy j = if j = h then .vacant else s.occupancy j) ∧
    t.mix = b.mix ∧ t.ring = s.ring ∧ t.group = s.group ∧ t.recorder = s.recorder := by
  subst ht
  obtain ⟨hmix, hring, hgroup⟩ := State.changeTo_kept c (some h) hq
  refine ⟨fun j hj => ?_, fun j => ?_, hmix, hring.trans hb.ring, hgroup.trans hb.group, ?_⟩
  · rw [State.changeTo_lineAt, if_neg (by simp [hj]), hb.others j hj]
  · rw [State.changeTo_occupancy, hb.occupancy]
  · rw [State.changeTo_recorder c (some h) hq, if_neg, hb.recorder]
    rintro ⟨hmoves, hfree⟩
    rcases hf with hf | hf
    · exact hmoves hf
    · rw [hf] at hfree; cases hfree

/-- Settles O35: with others joined the line keeps its state, and the last handset parks it where the batch is accepted. -/
theorem lineHold : Obligations.LineHold := by
  unfold Obligations.LineHold
  rintro s head turret handset line n h rest hw rfl rfl rfl
  obtain ⟨x, hx, he⟩ := exec_lineHold_taken hw turret handset line
  rw [← hx.lineFieldsOk, ← hx.lineAt, ← hx.leaveEdits]
  refine ⟨⟨x, hx, fun hf => ?_, fun hf hj => ?_, fun hf hj hrest hs => ?_, fun e hf hj hrest hs hmx => ?_⟩, fun hf hj => ?_⟩
  · rw [he, State.lineHold_badRequest hf]
  · rw [he, State.lineHold_notJoined hf hj]
  · rw [he, State.lineHold_last hf hj hrest, if_neg hs]
  · rw [he, State.lineHold_last hf hj hrest, if_pos hs, State.holdLast_refused (hx.mix ▸ hmx)]
  have hserved := hx.served_result (ownerWork_lineHold x turret.toNat handset.toNat line.toNat) .lineHold .done
  have hturret := handsetOf_turret hf
  refine ⟨fun hrest => ?_, fun mx hrest hs hmx => ?_⟩
  · rw [State.lineHold_others hf hj hrest, State.leaveLine_others .hold hrest] at he hserved
    generalize handsetOf turret.toNat handset.toNat = h, line.toNat = n at *
    have hstatus := x.offLine_status n h
    have hline : ((x.offLine n h).changeTo n (x.lineAt n).status .hold (some h)).lineAt n =
        { x.lineAt n with joined := (x.lineAt n).joined.filter (· != h) } := by
      rw [State.changeTo_lineAt, if_neg (by simp [hstatus]), State.offLine_lineAt, if_pos rfl]
    obtain ⟨hothers, hoccupancy, hmix, hring, hgroup, hrecorder⟩ :=
      (hx.offLine n h).changeTo_kept .hold (.inl hstatus.symm) (.inl hstatus.symm) rfl
    refine ⟨_, he, hserved, ?_⟩
    simp only [State.result_lineAt, State.result_occupancy, State.result_frame, hline]
    refine ⟨trivial, hothers, hoccupancy, ?_, hring, hgroup, hrecorder, ?_⟩
    · exact hmix.trans (congrArg (MixEngine.askEach _) hx.mix)
    · exact State.changeTo_result .hold _ _ hstatus (.inl rfl) hturret hx.src
  · rw [State.lineHold_last hf hj hrest, if_pos hs, State.holdLast_accepted hs (hx.mix ▸ hmx)] at he hserved
    generalize handsetOf turret.toNat handset.toNat = h, line.toNat = n at *
    have hstatus : ((x.holding n h mx).lineAt n).status = .connected := by rw [State.holding_lineAt, if_pos rfl, ← hs]
    have hparks : LineStatus.connected.Ringless .held := .inr ⟨by decide, by decide⟩
    have hline : ((x.holding n h mx).changeTo n .held .hold (some h)).lineAt n =
        { x.lineAt n with joined := [], status := .held, holdPlaced := (x.lineAt n).record.hold.isSome } := by
      rw [State.changeTo_lineAt, hstatus, State.holding_lineAt, if_pos rfl, if_pos ⟨rfl, by decide⟩, hrest]; rfl
    obtain ⟨hothers, hoccupancy, hmix, hring, hgroup, hrecorder⟩ :=
      (hx.holding n h mx).changeTo_kept .hold (hstatus ▸ hparks) (.inr rfl) rfl
    refine ⟨_, he, hserved, ?_⟩
    simp only [State.result_lineAt, State.result_occupancy, State.result_frame, hline]
    refine ⟨trivial, hothers, hoccupancy, hmix, hring, hgroup, hrecorder, ?_⟩
    rw [hs]; exact State.changeTo_result .hold _ _ hstatus hparks hturret hx.src

end Sys2Proof.Machine
end

section
/-!
SUPPORT. The requests that a member of a group makes of it (R124 to R127): it leaves, it presses its key, it releases it. A leave is
`State.offGroup` with the MEMBER_LEFT last; a TALK_KEY and a TALK_UNKEY are one operation, `State.keyRequest`, to the two key states.
-/

namespace Sys2Proof.Machine

/-! ### A request of a turret and a group -/

/-- A request of a turret and a group is taken by its owner, and its result follows (R182, R183). -/
theorem State.groupRequest_taken {s : State} {head : RequestHead} (hw : s.RequestWay head) (turret group : BitVec 8)
    {k : RequestKind} {work : State → Nat → Nat → State × Code}
    (hk : ∀ x r d, State.dispatch x r d k = answerNow r k (work x (field d 4 1) (field d 5 1))) :
    ∃ x, Taken s.ready head.master (requestOffset head.cell) (requestCell head k [turret, group]) x ∧
      s.request head k [turret, group] = answerNow (replyTo head) k (work x turret.toNat group.toNat) := by
  obtain ⟨hway, hring, hrestart⟩ := hw
  obtain ⟨x, hx, he⟩ := State.request_dispatched hway hring hrestart k [turret, group]
  obtain ⟨hturret, hgroup⟩ := groupFields_back head k turret group
  exact ⟨x, hx, by rw [he, hk, hturret, hgroup]; rfl⟩

theorem Taken.groupAt {s x : State} {m o : Nat} {d : Burst} (hx : Taken s.ready m o d x) (g : Nat) :
    x.groupAt g = s.groupAt g := by simp only [State.groupAt, hx.group]; rfl

theorem Group.turret_of_member {x : Group} {t : Nat} {m : Member} (h : x.member t = some m) : m.turret = t := by
  simpa using List.find?_some h

@[simp] theorem State.result_groupAt (s : State) (r : ReplyTo) (k : RequestKind) (c : Code) (g : Nat) :
    (s.result r k c).groupAt g = s.groupAt g := by simp [State.groupAt]

@[simp] theorem State.handOn_groupAt (s : State) (n : Notice) (g : Nat) : (s.handOn n).groupAt g = s.groupAt g := by
  simp [State.groupAt]

@[simp] theorem State.handOn_occupancy (s : State) (n : Notice) (h : Nat) : (s.handOn n).occupancy h = s.occupancy h := by
  simp [State.occupancy]

@[simp] theorem State.reportIdle_groupAt (s : State) (o : Obj) (g : Nat) : (s.reportIdle o).groupAt g = s.groupAt g := by
  simp [State.groupAt]

@[simp] theorem State.reportIdle_occupancy (s : State) (o : Obj) (h : Nat) :
    (s.reportIdle o).occupancy h = s.occupancy h := by
  simp [State.occupancy]

/-! ### A member off its group -/

theorem State.free_occupancy (s : State) (h g k : Nat) :
    (s.free h g).occupancy k = if h = k ∧ s.occupancy k = .group g then .vacant else s.occupancy k := by
  by_cases hg : s.occupancy h = .group g
  · rw [State.free, if_pos hg, State.setOccupancy_get]
    by_cases hk : h = k
    · subst hk; rw [if_pos rfl, if_pos ⟨rfl, hg⟩]
    · rw [if_neg (Ne.symm hk), if_neg fun e => hk e.1]
  · rw [State.free, if_neg hg, if_neg]
    rintro ⟨rfl, hk⟩
    exact hg hk

/-- The handset of a member's attach, if it has one, is freed by its group (R124). -/
def State.freeAttach (s : State) (g : Nat) (m : Member) : State :=
  match attachHandset m.turret m.attach with
  | some h => s.free h g
  | none => s

@[simp] theorem State.freeAttach_frame (s : State) (g : Nat) (m : Member) :
    (s.freeAttach g m).src = s.src ∧ (s.freeAttach g m).mix = s.mix ∧ (s.freeAttach g m).line.lines = s.line.lines ∧
    (s.freeAttach g m).ring = s.ring ∧ (s.freeAttach g m).group = s.group ∧
    (s.freeAttach g m).recorder = s.recorder := by
  unfold State.freeAttach; split <;> simp

theorem State.freeAttach_occupancy (s : State) (g k : Nat) (m : Member) :
    (s.freeAttach g m).occupancy k =
      if attachHandset m.turret m.attach = some k ∧ s.occupancy k = .group g then .vacant else s.occupancy k := by
  unfold State.freeAttach
  split
  next h ha => simp only [State.free_occupancy, ha, Option.some_inj]
  next ha => simp [ha]

/-- A group without one of its turrets. -/
def Group.without (x : Group) (t : Nat) : Group := { x with members := x.members.filter fun o => o.turret != t }

/-- The member is off the list, its edits are asked and its handset is free; the channel is yet to be freed (R124). -/
def State.offList (s : State) (g : Nat) (m : Member) : State :=
  ((s.askEach (memberDrops g m)).freeAttach g m).setGroup g ((s.groupAt g).without m.turret)

/-- The member is off the group, and a group without members has no channel; the MEMBER_LEFT is yet to be handed on (R124). -/
def State.offGroup (s : State) (g : Nat) (m : Member) : State :=
  if ((s.groupAt g).without m.turret).members = [] then (s.offList g m).reportIdle (.group g) else s.offList g m

@[simp] theorem State.offList_frame (s : State) (g : Nat) (m : Member) :
    (s.offList g m).src = s.src ∧ (s.offList g m).mix = s.mix.askEach (memberDrops g m) ∧
    (s.offList g m).line.lines = s.line.lines ∧ (s.offList g m).ring = s.ring ∧ (s.offList g m).recorder = s.recorder := by
  simp [State.offList, State.askEach]

@[simp] theorem State.offGroup_frame (s : State) (g : Nat) (m : Member) :
    (s.offGroup g m).src = s.src ∧ (s.offGroup g m).mix = s.mix.askEach (memberDrops g m) ∧
    (s.offGroup g m).line.lines = s.line.lines ∧ (s.offGroup g m).ring = s.ring := by
  unfold State.offGroup; split <;> simp

theorem State.offGroup_groupAt (s : State) (g k : Nat) (m : Member) :
    (s.offGroup g m).groupAt k = if k = g then (s.groupAt g).without m.turret else s.groupAt k := by
  have hlist : (s.offList g m).groupAt k = if k = g then (s.groupAt g).without m.turret else s.groupAt k := by
    rw [State.offList, State.setGroup_get]; simp [State.groupAt]
  unfold State.offGroup; split <;> simp [hlist]

theorem State.offGroup_occupancy (s : State) (g k : Nat) (m : Member) :
    (s.offGroup g m).occupancy k =
      if attachHandset m.turret m.attach = some k ∧ s.occupancy k = .group g then .vacant else s.occupancy k := by
  have hlist : (s.offList g m).occupancy k =
      if attachHandset m.turret m.attach = some k ∧ s.occupancy k = .group g then .vacant else s.occupancy k :=
    (s.askEach (memberDrops g m)).freeAttach_occupancy g k m
  unfold State.offGroup; split <;> simp [hlist]

/-- The last member's leave is an idle report of the group; any other leaves the recorder as it was (R124, R140). -/
theorem State.offGroup_recorder (s : State) (g : Nat) (m : Member) :
    (s.offGroup g m).recorder =
      if ((s.groupAt g).without m.turret).members = [] then (s.reportIdle (.group g)).recorder else s.recorder := by
  have hidle := State.reportIdle_recorder (s := s) (x := s.offList g m) (.group g) (by simp)
  unfold State.offGroup; split <;> simp [hidle]

/-- A leave ends with its MEMBER_LEFT (R124). -/
theorem State.leaveGroup_eq (s : State) (g : Nat) (m : Member) (c : Cause) :
    s.leaveGroup g m c = (s.offGroup g m).handOn
      (memberNotice s .memberLeft g m (s.groupAt g).memberCount ((s.groupAt g).without m.turret).memberCount c) := by
  have hnotice : ∀ before after, memberNotice (s.offGroup g m) .memberLeft g m before after c =
      memberNotice s .memberLeft g m before after c := fun _ _ => by simp [memberNotice]
  rw [← hnotice]; rfl

/-! ### GROUP_LEAVE -/

theorem ownerWork_groupLeave (x : State) (turret g : Nat) : OwnerWork x (x.groupLeave turret g).1 := by
  constructor <;> simp

theorem exec_groupLeave_taken {s : State} {head : RequestHead} (hw : s.RequestWay head) (turret group : BitVec 8) :
    ∃ x, Taken s.ready head.master (requestOffset head.cell) (requestCell head .groupLeave [turret, group]) x ∧
      exec (.groupLeave head turret group) s =
        .next ((x.groupLeave turret.toNat group.toNat).1.result (replyTo head) .groupLeave
          (x.groupLeave turret.toNat group.toNat).2) := by
  obtain ⟨x, hx, he⟩ := State.groupRequest_taken hw turret group (k := .groupLeave) (fun _ _ _ => rfl)
  exact ⟨x, hx, congrArg Host.Outcome.next he⟩

theorem State.groupLeave_badRequest {x : State} {t g : Nat} (h : 63 < t ∨ 31 < g) :
    x.groupLeave t g = (x, .badRequest) := if_pos h

theorem State.groupLeave_notMember {x : State} {t g : Nat} (ht : t ≤ 63) (hg : g ≤ 31) (hm : (x.groupAt g).member t = none) :
    x.groupLeave t g = (x, .notMember) := by
  simp only [State.groupLeave, hm, if_neg (show ¬ (63 < t ∨ 31 < g) by omega)]

theorem State.groupLeave_member {x : State} {t g : Nat} {m : Member} (ht : t ≤ 63) (hg : g ≤ 31)
    (hm : (x.groupAt g).member t = some m) : x.groupLeave t g = (x.leaveGroup g m .leave, .done) := by
  simp only [State.groupLeave, hm, if_neg (show ¬ (63 < t ∨ 31 < g) by omega)]

/-- Settles O37: a member's leave is `State.offGroup`, then its MEMBER_LEFT and the result. -/
theorem groupLeave : Obligations.GroupLeave := by
  unfold Obligations.GroupLeave
  rintro s head turret group g hw rfl
  obtain ⟨x, hx, he⟩ := exec_groupLeave_taken hw turret group
  rw [← hx.groupAt]
  refine ⟨⟨x, hx, fun hbad => ?_, fun ht hg hm => ?_⟩, ?_⟩
  · rw [he, State.groupLeave_badRequest hbad]
  · rw [he, State.groupLeave_notMember ht hg hm]
  rintro m rest ht hg hm rfl
  have hserved := hx.served_result (ownerWork_groupLeave x turret.toNat group.toNat) .groupLeave .done
  rw [State.groupLeave_member ht hg hm, State.leaveGroup_eq] at he hserved
  rw [← Group.turret_of_member hm]
  generalize group.toNat = g at *
  refine ⟨_, he, hserved, ?_⟩
  simp only [State.result_groupAt, State.result_occupancy, State.result_frame, State.handOn_groupAt, State.handOn_occupancy,
    State.handOn_frame, State.offGroup_groupAt, State.offGroup_occupancy, State.offGroup_recorder, State.offGroup_frame]
  refine ⟨rfl, fun k hk => (if_neg hk).trans (hx.groupAt k), fun k => by rw [hx.occupancy],
    congrArg (MixEngine.askEach _) hx.mix, ?_, congrArg LineUnit.lines hx.line, hx.ring, x.offGroup g m, ?_⟩
  · rw [State.reportIdle_recorder (s := s) (.group g) hx.recorder, hx.recorder]; rfl
  · simp only [memberNotice, hx.src]; rfl

/-! ### TALK_KEY and TALK_UNKEY -/

/-- The group controller takes a TALK_KEY, or a TALK_UNKEY: a request to bring the key down, or up (R126, R127). -/
def State.keyRequest (s : State) (down : Bool) (t g : Nat) : State × Code := if down then s.talkKey t g else s.talkUnkey t g

/-- The cause of a key state that a request changes (R130). -/
def keyCause (down : Bool) : Cause := if down then .key else .unkey

theorem ownerWork_keyRequest (x : State) (down : Bool) (t g : Nat) : OwnerWork x (x.keyRequest down t g).1 := by
  cases down <;> constructor <;> simp [State.keyRequest]

theorem exec_keyRequest_taken {s : State} {head : RequestHead} (hw : s.RequestWay head) {turret group : BitVec 8} {down : Bool}
    {c : Instr} {k : RequestKind}
    (hc : c = .talkKey head turret group ∧ k = .talkKey ∧ down = true ∨
      c = .talkUnkey head turret group ∧ k = .talkUnkey ∧ down = false) :
    ∃ x, Taken s.ready head.master (requestOffset head.cell) (requestCell head k [turret, group]) x ∧
      exec c s = .next ((x.keyRequest down turret.toNat group.toNat).1.result (replyTo head) k
        (x.keyRequest down turret.toNat group.toNat).2) := by
  rcases hc with ⟨rfl, rfl, rfl⟩ | ⟨rfl, rfl, rfl⟩
  · obtain ⟨x, hx, he⟩ := State.groupRequest_taken hw turret group (k := .talkKey) (fun _ _ _ => rfl)
    exact ⟨x, hx, congrArg Host.Outcome.next he⟩
  · obtain ⟨x, hx, he⟩ := State.groupRequest_taken hw turret group (k := .talkUnkey) (fun _ _ _ => rfl)
    exact ⟨x, hx, congrArg Host.Outcome.next he⟩

theorem State.keyRequest_badRequest {x : State} {down : Bool} {t g : Nat} (h : 63 < t ∨ 31 < g) :
    x.keyRequest down t g = (x, .badRequest) := by
  cases down
  · exact if_pos h
  · exact if_pos h

theorem State.keyRequest_notMember {x : State} {down : Bool} {t g : Nat} (ht : t ≤ 63) (hg : g ≤ 31)
    (hm : (x.groupAt g).member t = none) : x.keyRequest down t g = (x, .notMember) := by
  have hfields : ¬ (63 < t ∨ 31 < g) := by omega
  cases down <;> simp [State.keyRequest, State.talkKey, State.talkUnkey, hfields, hm]

section
variable {x : State} {down : Bool} {t g : Nat} {m : Member} (ht : t ≤ 63) (hg : g ≤ 31) (hm : (x.groupAt g).member t = some m)
include ht hg hm

/-- A key request of a member: its key, the recorder where the key goes down, then the key state (R126, R127). -/
theorem State.keyRequest_member :
    x.keyRequest down t g =
      if hasKey (x.groupAt g) m = false then (x, .notTalker)
      else if down = true ∧ (x.groupAt g).record.mode = .required ∧ x.recorder.status = .outage then (x, .recorderDown)
      else if m.keyed = down then (x, .done) else (x.setKey g t down (keyCause down), .done) := by
  have hfields : ¬ (63 < t ∨ 31 < g) := by omega
  cases down
  · cases hk : m.keyed <;> simp [State.keyRequest, State.talkUnkey, hfields, hm, keyCause, hk]
  · simp [State.keyRequest, State.talkKey, hfields, hm, keyCause]

theorem State.keyRequest_notTalker (hkey : (x.groupAt g).record.kind = .intercom ∨ m.talker = false) :
    x.keyRequest down t g = (x, .notTalker) := by
  rw [State.keyRequest_member ht hg hm, if_pos]
  rcases hkey with hkey | hkey <;> simp [hasKey, hkey]

theorem State.keyRequest_recorderDown (hbox : (x.groupAt g).record.kind = .box) (htalker : m.talker = true) (hdown : down = true)
    (hmode : (x.groupAt g).record.mode = .required) (hout : x.recorder.status = .outage) :
    x.keyRequest down t g = (x, .recorderDown) := by
  rw [State.keyRequest_member ht hg hm, if_neg (by simp [hasKey, hbox, htalker]), if_pos ⟨hdown, hmode, hout⟩]

theorem State.keyRequest_done (hbox : (x.groupAt g).record.kind = .box) (htalker : m.talker = true)
    (hrecorder : down = true → (x.groupAt g).record.mode ≠ .required ∨ x.recorder.status = .healthy) :
    x.keyRequest down t g = (if m.keyed = down then x else x.setKey g t down (keyCause down), .done) := by
  have hrecorded : ¬ (down = true ∧ (x.groupAt g).record.mode = .required ∧ x.recorder.status = .outage) := by
    rintro ⟨hdown, hmode, hout⟩
    rcases hrecorder hdown with h | h
    · exact h hmode
    · rw [hout] at h; cases h
  rw [State.keyRequest_member ht hg hm, if_neg (by simp [hasKey, hbox, htalker]), if_neg hrecorded]
  split <;> rfl

end

@[simp] theorem State.setKey_groupAt (s : State) (g t k : Nat) (down : Bool) (c : Cause) :
    (s.setKey g t down c).groupAt k = if k = g then (s.groupAt g).setKey t down else s.groupAt k := by
  rw [State.setKey, State.handOn_groupAt, State.setGroup_get]

/-- Of a key state that changes, the groups change first, and the notice is handed on last (R130). -/
theorem State.setKey_notice (s : State) (g t : Nat) (down : Bool) (c : Cause) :
    s.setKey g t down c = State.handOn { s with group := (s.setKey g t down c).group } (keyNotice s g t down c) := by
  have hgroup : (s.setKey g t down c).group = (s.setGroup g ((s.groupAt g).setKey t down)).group := by simp [State.setKey]
  rw [hgroup]; rfl

/-- Settles O38: the key state and its notice are `State.setKey`, and where the key state is as asked nothing is done. -/
theorem talkKeys : Obligations.TalkKeys := by
  unfold Obligations.TalkKeys
  rintro s head turret group down g c k hw rfl hc
  obtain ⟨x, hx, he⟩ := exec_keyRequest_taken hw hc
  have hrecorder : x.recorder = s.recorder := hx.recorder
  rw [← hx.groupAt, ← hrecorder]
  refine ⟨⟨x, hx, fun hbad => ?_, fun ht hg hm => ?_, fun m ht hg hm => ⟨fun hkey => ?_, fun hbox htalker hdown hmode hout => ?_⟩⟩,
    fun m ht hg hm hbox htalker hup => ?_⟩
  · rw [he, State.keyRequest_badRequest hbad]
  · rw [he, State.keyRequest_notMember ht hg hm]
  · rw [he, State.keyRequest_notTalker ht hg hm hkey]
  · rw [he, State.keyRequest_recorderDown ht hg hm hbox htalker hdown hmode hout]
  have hserved := hx.served_result (ownerWork_keyRequest x down turret.toNat group.toNat) k .done
  rw [State.keyRequest_done ht hg hm hbox htalker hup] at he hserved
  generalize group.toNat = g at *
  refine ⟨_, he, hserved, ?_⟩
  by_cases hk : m.keyed = down
  · simp only [if_pos hk, State.result_groupAt, State.result_frame]
    exact ⟨trivial, fun i _ => hx.groupAt i, hx.mix, hx.line, hx.ring, trivial, x, hx, rfl⟩
  · simp only [if_neg hk, State.result_groupAt, State.result_frame, State.setKey_groupAt, State.setKey_frame]
    refine ⟨rfl, fun i hi => (if_neg hi).trans (hx.groupAt i), hx.mix, hx.line, hx.ring, trivial, x, hx, ?_⟩
    have hsrc : x.src = s.src := hx.src
    rw [← hsrc]
    exact congrArg (State.result · (replyTo head) k .done) (State.setKey_notice ..)

end Sys2Proof.Machine
end

section
/-!
SUPPORT. Writes of the consumer cells (R153, R165, R193). A full one answered OK is handed to its owner in the state that `Taken`
describes, and the owner's operation moves the consumer shadow at most; a partial one is forwarded for no block, whatever memory
answers (`State.takeAnswered_partialCell`).
-/

namespace Sys2Proof.Machine

/-! ### Full writes -/

/-- A master's full write of a cell, answered OK, is handed to the owning block: the path switch still decodes (R162, R165). -/
theorem State.cellWrite_taken {s : State} {m offset : Nat} {h : Hand} (hw : s.Way m offset) (ho : offset < 2 ^ 24)
    (ha : areaOf offset = .cell h) (d : Burst) :
    ∃ x, Taken s.ready m offset d x ∧ x.path.active = true ∧
      s.ready.takeAnswered m (s.path.address offset) (fullWrite d) .ok = x.hand h d := by
  obtain ⟨x, hx, he⟩ := State.takeAnswered_taken (State.ready_way.2 hw) ho (.inl ha) d
  exact ⟨x, hx, hx.active (State.ready_way.2 hw), he⟩

theorem exec_recordConsumerWrite_taken {s : State} {m : Master} (hw : s.Way m recordConsumerOffset) (d : Burst) :
    ∃ x, Taken s.ready m recordConsumerOffset d x ∧
      exec (.recordConsumerWrite m d) s = .next (x.takeRecordConsumer d) := by
  obtain ⟨x, hx, hactive, he⟩ := State.cellWrite_taken hw (by decide) areaOf_recordConsumer d
  exact ⟨x, hx, by rw [exec_after, after, he, State.hand, if_pos hactive]⟩

theorem exec_noticeConsumerWrite_taken {s : State} {m : Master} {k : Fin 4} (hw : s.Way m (noticeConsumerOffset k)) (d : Burst) :
    ∃ x, Taken s.ready m (noticeConsumerOffset k) d x ∧
      exec (.noticeConsumerWrite m k d) s = .next (x.takeNoticeConsumer k d) := by
  obtain ⟨x, hx, hactive, he⟩ :=
    State.cellWrite_taken hw (noticeConsumerOffset_lt k.isLt) (areaOf_noticeConsumer k.isLt) d
  exact ⟨x, hx, by rw [exec_after, after, he, State.hand, if_pos hactive]⟩

/-- A burst write changes no byte outside its 32. -/
theorem onlyStores_writeBurst {s t : State} {addr : Nat} {d : Burst} {en : Enables} (h : t.mem = writeBurst s.mem addr d en) :
    OnlyStores s t addr := by
  intro a ha
  rw [h, readByte_writeBurst, if_neg (by omega)]

/-- Work of the owning block that leaves memory alone leaves the write's 32 bytes the only ones changed. -/
theorem Taken.onlyStores {s x t : State} {m offset : Nat} {d : Burst} (hx : Taken s.ready m offset d x) (ht : t.mem = x.mem) :
    OnlyStores s t (s.path.address offset) :=
  onlyStores_writeBurst (ht.trans hx.mem)

/-! ### The consumer shadows -/

/-- The record unit takes an index below its capacity, and ignores any other (R153). -/
theorem State.takeRecordConsumer_recorder (s : State) (d : Burst) :
    (s.takeRecordConsumer d).recorder =
      if field d 0 4 < s.recorder.cap then { s.recorder with consumer := field d 0 4 } else s.recorder := by
  unfold State.takeRecordConsumer; split <;> rfl

/-- The notice unit takes an index below the ring's capacity, and ignores any other (R193). -/
theorem State.takeNoticeConsumer_self (s : State) (k : Nat) (d : Burst) :
    (s.takeNoticeConsumer k d).noticeRing k =
      if field d 0 4 < (s.noticeRing k).cap then { s.noticeRing k with consumer := field d 0 4 } else s.noticeRing k := by
  unfold State.takeNoticeConsumer; split <;> simp

theorem State.takeNoticeConsumer_ne (s : State) (d : Burst) {k j : Nat} (h : j ≠ k) :
    (s.takeNoticeConsumer k d).noticeRing j = s.noticeRing j := by
  unfold State.takeNoticeConsumer; split <;> simp [State.setRing_get, h]

/-- An output INTk is asserted while its enable is on and the ring's indices differ (R194). -/
theorem State.int_iff (s : State) (k : Nat) :
    s.int k = true ↔ s.plan.floor.enables.getLsbD k = true ∧ (s.noticeRing k).published ≠ (s.noticeRing k).consumer := by
  simp [State.int]

theorem Taken.noticeRing {s x : State} {m offset : Nat} {d : Burst} (hx : Taken s.ready m offset d x) (k : Nat) :
    x.noticeRing k = s.noticeRing k := by simp only [State.noticeRing, hx.notice]; rfl

/-! ### Partial writes -/

/-- A partial write of a cell is counted and forwarded for no block (R165). -/
theorem State.takeBurst_partialCell {s : State} {m offset : Nat} {h : Hand} (hw : s.Way m offset) (ho : offset < 2 ^ 24)
    (ha : areaOf offset = .cell h) (d : Burst) {en : Enables} (hen : en ≠ Enables.full) :
    s.takeBurst m (s.path.address offset) (.write d en) =
      s.countPartial.forward m (s.path.address offset) (.write d en) .nobody := by
  obtain ⟨hactive, hroom, -⟩ := hw
  rw [State.takeBurst_inside hactive hroom ho]
  simp only [State.takeInside, ha, if_neg hen]

/-- A burst forwarded waits at the memory side, so that memory's answer is taken (R166, R167). -/
theorem State.forward_waits (s : State) (m addr : Nat) (op : BurstOp) (h : Hand) :
    (s.forward m addr op h).path.fwdWait.any (fun f => f.id == s.path.nextId) = true := by
  simp [State.forward]

/-- The answer to a write forwarded for no block goes to its entry, and nowhere else (R167). -/
theorem State.answerMaster_nobody (s : State) (m entry : Nat) (d : Burst) (en : Enables) (ok : Bool) (held : Burst) :
    s.answerMaster m entry .nobody (.write d en) ok held =
      s.answerEntry m entry (some (if ok then .ok else .error)) := by
  cases ok
  · rfl
  · simp [State.answerMaster, State.hand]

/-- A write forwarded for no block and answered changes no block and no count, and of memory what the answer leaves there. -/
theorem State.forward_answered {s : State} {m addr : Nat} (d : Burst) (en : Enables) (hc : s.path.Clear addr) (ok : Bool) :
    ∃ t, (s.forward m addr (.write d en) .nobody).answerFlight s.path.nextId ok = t ∧ BlocksKept s t ∧
      t.path.partialWrites = s.path.partialWrites ∧
      t.mem = writeBurst s.mem addr (if ok then d else Config.keptOnError s.path.nextId) en := by
  obtain ⟨x, hx, he⟩ := State.answerFlight_alone (State.forward_alone (m := m) (.write d en) .nobody hc) ok
  have hanswered : (s.forward m addr (.write d en) .nobody).answerFlight s.path.nextId ok =
      x.answerEntry m s.path.nextId (some (if ok then .ok else .error)) := by
    simpa [State.answerOwner, State.answerMaster_nobody, Owner.isOwn, State.completeImage_other] using he
  refine ⟨_, hanswered, ?_, ?_, ?_⟩
  · simp [BlocksKept, hx.src, hx.mix, hx.line, hx.ring, hx.group, hx.recorder, hx.plan, hx.notice]
  · simp [hx.partialWrites]
  · cases ok <;> simp [hx.mem, memoryAfter]

/-- A partial write of a cell is counted and changes no block, whatever memory answers; of memory it changes the cell's bytes at
most, and on OK those that it enables (R165, R171). -/
theorem State.takeAnswered_partialCell {s : State} {m offset : Nat} {h : Hand} (hw : s.Way m offset) (ho : offset < 2 ^ 24)
    (ha : areaOf offset = .cell h) (d : Burst) {en : Enables} (hen : en ≠ Enables.full) (ans : MemAnswer) :
    ∃ t, s.takeAnswered m (s.path.address offset) (.write d en) ans = t ∧ BlocksKept s t ∧
      t.path.partialWrites = s.path.partialWrites + 1 ∧ OnlyStores s t (s.path.address offset) ∧
      (ans = .ok → t.mem = writeBurst s.mem (s.path.address offset) d en) := by
  have htaken := State.takeBurst_partialCell hw ho ha d hen
  have hwaits := s.countPartial.forward_waits m (s.path.address offset) (.write d en) .nobody
  obtain ⟨-, -, hclear⟩ := hw
  have hanswered := State.forward_answered (s := s.countPartial) (m := m) d en hclear
  cases ans with
  | later =>
    refine ⟨_, htaken, ?_, ?_, fun a _ => ?_, nofun⟩
    · simp [BlocksKept]
    · simp [State.countPartial]
    · simp
  | ok =>
    obtain ⟨t, he, hblocks, hcount, hmem⟩ := hanswered true
    refine ⟨t, ?_, hblocks, hcount, onlyStores_writeBurst hmem, fun _ => hmem⟩
    simp only [State.takeAnswered, htaken]
    exact (if_pos hwaits).trans he
  | error =>
    obtain ⟨t, he, hblocks, hcount, hmem⟩ := hanswered false
    refine ⟨t, ?_, hblocks, hcount, onlyStores_writeBurst hmem, nofun⟩
    simp only [State.takeAnswered, htaken]
    exact (if_pos hwaits).trans he

/-- The area of a consumer cell, which lies in the floor region (the table of 08). -/
theorem areaOf_consumerCell {o : Nat} (h : o = recordConsumerOffset ∨ ∃ k : Fin 4, o = noticeConsumerOffset k) :
    o < 2 ^ 24 ∧ ∃ hand, areaOf o = .cell hand := by
  rcases h with rfl | ⟨k, rfl⟩
  · exact ⟨by decide, _, areaOf_recordConsumer⟩
  · exact ⟨noticeConsumerOffset_lt k.isLt, _, areaOf_noticeConsumer k.isLt⟩

/-- Settles O41: a full write is its owner's operation on the state that `Taken` describes, and a partial one that of
`State.takeAnswered_partialCell`. -/
theorem consumerCells : Obligations.ConsumerCells := by
  unfold Obligations.ConsumerCells
  rintro s m data i rfl
  refine ⟨fun hw => ?_, fun k hw => ?_, fun o a en ans hcell hw haddr hen => ?_⟩
  · obtain ⟨x, hx, he⟩ := exec_recordConsumerWrite_taken hw data
    have hrecorder : x.recorder = s.recorder := hx.recorder
    refine ⟨_, he, by rw [State.takeRecordConsumer_recorder, hrecorder], hx.onlyStores (by simp), ?_⟩
    simp [hx.src, hx.mix, hx.line, hx.ring, hx.group, hx.plan, hx.notice]
  · obtain ⟨x, hx, he⟩ := exec_noticeConsumerWrite_taken hw data
    have hring := x.takeNoticeConsumer_self k data
    have hplan : (x.takeNoticeConsumer k data).plan = s.plan := by simp [hx.plan]
    rw [hx.noticeRing] at hring
    refine ⟨_, he, hring, fun j hj => (x.takeNoticeConsumer_ne data hj).trans (hx.noticeRing j), fun hbelow => ?_,
      hx.onlyStores (by simp), ?_⟩
    · rw [State.int_iff, hplan, hring, if_pos hbelow]
    · simp [hx.src, hx.mix, hx.line, hx.ring, hx.group, hx.recorder, hx.plan, hx.notice]
  · obtain ⟨ho, hand, harea⟩ := areaOf_consumerCell hcell
    obtain ⟨t, he, ht⟩ := State.takeAnswered_partialCell (State.ready_way.2 hw) ho harea data hen ans
    exact ⟨t, by rw [exec_after, after, haddr]; exact congrArg Host.Outcome.next he, ht⟩

end Sys2Proof.Machine
end

section
/-!
SUPPORT. The checksum of a record (R149): the header's burst is its 30 bytes and the two of the checksum, and 94 bytes sum to 23970
at most, so that nothing wraps.
-/

namespace Sys2Proof.Machine

/-! ### Sums of bytes -/

theorem sum_toNat_le (l : List Byte) : (l.map fun x => x.toNat).sum ≤ 255 * l.length := by
  induction l with
  | nil => simp
  | cons b l ih =>
    have hb := b.isLt
    simp only [List.map_cons, List.sum_cons, List.length_cons]
    omega

/-- The 32 bytes of a burst sum to 32 times 255 at most. -/
theorem byteSum_le (d : Burst) : byteSum d ≤ 8160 := by
  simpa [byteSum, Function.comp_def] using sum_toNat_le ((List.range 32).map (byteOf d))

/-- The first bytes of a packed burst are those of the list. -/
theorem map_byteOf_packBytes_append {l : List Byte} (h : l.length ≤ 32) (rest : List Byte) :
    (List.range l.length).map (byteOf (packBytes (l ++ rest))) = l := by
  refine List.ext_getElem (by simp) fun i hi hl => ?_
  simp only [List.getElem_map, List.getElem_range]
  rw [byteOf_packBytes _ (by omega), List.getElem?_append_left hl, List.getElem?_eq_getElem hl, Option.getD_some]

/-! ### The header of a record -/

@[simp] theorem length_recordHeader (r : PendingRecord) (dropped : Nat) : (recordHeader r dropped).length = 30 := by
  simp [recordHeader, optHalf, List.length_flatMap]

/-- The first 30 bytes of burst 0 of a record are its header (R148). -/
theorem map_byteOf_encodeHeader (r : PendingRecord) (dropped : Nat) (a b : Burst) :
    (List.range 30).map (byteOf (encodeHeader r dropped a b)) = recordHeader r dropped := by
  have h := map_byteOf_packBytes_append (l := recordHeader r dropped) (by simp) (le 2 (recordChecksum (recordHeader r dropped) a b))
  rwa [length_recordHeader] at h

/-- The 94 bytes of a record beside its checksum sum to 94 times 255 at most. -/
theorem recordSum_le {header : List Byte} (h : header.length = 30) (a b : Burst) :
    (header.map fun x => x.toNat).sum + byteSum a + byteSum b ≤ 23970 := by
  have hheader := sum_toNat_le header
  have ha := byteSum_le a
  have hb := byteSum_le b
  omega

/-- The checksum of a record does not wrap modulo 65536 (R149). -/
theorem recordChecksum_eq (header : List Byte) (a b : Burst) :
    recordChecksum header a b = 65535 - ((header.map fun x => x.toNat).sum + byteSum a + byteSum b) :=
  Nat.mod_eq_of_lt (by omega)

/-- The last two bytes of burst 0 of a record hold its checksum (R148). -/
theorem field_encodeHeader_checksum (r : PendingRecord) (dropped : Nat) (a b : Burst) :
    field (encodeHeader r dropped a b) 30 2 = recordChecksum (recordHeader r dropped) a b := by
  have hlt : recordChecksum (recordHeader r dropped) a b < 256 ^ 2 := Nat.mod_lt _ (by decide)
  rw [encodeHeader, field_packBytes _ _ _ (by decide), List.drop_left' (length_recordHeader r dropped),
    List.take_of_length_le (by simp), bytesValue_le, Nat.mod_eq_of_lt hlt]

/-- Settles O58: the 94 bytes are the header's 30 and those of the two parts, and the checksum is 65535 minus their sum. -/
theorem encodeHeader_recordChecksum : Obligations.RecordChecksum := by
  unfold Obligations.RecordChecksum
  rintro r dropped a b h sum rfl hsum
  have hle := recordSum_le (length_recordHeader r dropped) a b
  have hheader := congrArg (fun l => (l.map fun x => x.toNat).sum) (map_byteOf_encodeHeader r dropped a b)
  simp only [List.map_map, Function.comp_def] at hheader
  rw [hheader] at hsum
  rw [← hsum] at hle
  rw [field_encodeHeader_checksum, recordChecksum_eq, ← hsum]
  omega

end Sys2Proof.Machine
end
